-- ==== Sys2Proof/Word.lean ====
section
/-!
DEFINITION. The word types of nBlazeSim CORE (spec 00_scope.md R9, 10_state.md R102, R106).
-/
namespace Sys2Proof

/-- A data byte: a general register, a scratch-pad location, a port value (R9). -/
abbrev Byte := BitVec 8

/-- A 12-bit program address (R106) or router address (R200). -/
abbrev Addr := BitVec 12

/-- An 18-bit instruction word (R301). -/
abbrev InsnWord := BitVec 18

/-- A register number, the 4-bit field `X` or `Y` of a word: `s0` to `sF` (R102, R303). -/
abbrev Reg := BitVec 4

/-- One register bank: 16 registers of 8 bits (R102). -/
abbrev RegFile := Vector Byte 16

end Sys2Proof
end

