-- ==== Sys2Proof/Machine/Flags.lean ====
section
/-!
DEFINITION. Results and flag values of the arithmetic, test, compare and shift instructions. Sums and differences are
exact and narrowed once (spec 00_scope.md R22, 41_arithmetic.md R455).
-/
namespace Sys2Proof.Machine

/-- A computed byte and the flags an instruction sets with it. -/
structure Alu where
  r : Byte
  z : Bool
  c : Bool
  deriving DecidableEq, Repr

/-- `Z` of a result: `bool(r == 0)` (10_state.md R107). -/
def isZero (r : Byte) : Bool := r == 0#8

/-- A result with `Z` taken from it and carry `c`. -/
def Alu.of (r : Byte) (c : Bool) : Alu := { r := r, z := isZero r, c := c }

/-- A flag as a number. -/
def flagNat (c : Bool) : Nat := if c then 1 else 0

/-- `ADD`, `ADDCY` (R451, R452): `t = a + b + cin`; the byte is `t mod 256`, the carry `t > 255`. -/
def addBytes (a b : Byte) (cin : Bool) : Alu :=
  let t := a.toNat + b.toNat + flagNat cin
  Alu.of (BitVec.ofNat 8 t) (decide (t > 255))

/-- `SUB`, `SUBCY`, `COMPARE`, `COMPARECY` (R453, R454, R503, R504): `t = a - b - cin` as an integer; the byte is
`t mod 256`, the borrow `t < 0`. -/
def subBytes (a b : Byte) (cin : Bool) : Alu :=
  let t := (a.toNat : Int) - (b.toNat : Int) - (flagNat cin : Int)
  Alu.of (BitVec.ofInt 8 t) (decide (t < 0))

/-- `parity8(v)`: the exclusive-or of the eight bits (00_scope.md R23). -/
def parity8 (v : Byte) : Bool :=
  v.getLsbD 7 ^^ v.getLsbD 6 ^^ v.getLsbD 5 ^^ v.getLsbD 4 ^^ v.getLsbD 3 ^^ v.getLsbD 2 ^^ v.getLsbD 1 ^^ v.getLsbD 0

/-- `TEST`, `TESTCY` (R501, R502): the conjunction's `Z`, and its parity combined with `cin`. -/
def testBytes (a b : Byte) (cin : Bool) : Alu := Alu.of (a &&& b) (parity8 (a &&& b) ^^ cin)

/-- A shift left (43_shift_rotate.md R549): `v[6:0] ++ bitIn`, the old bit 7 into the carry. -/
def shiftLeft (v : Byte) (bitIn : Bool) : Alu := Alu.of (v.extractLsb' 0 7 ++ BitVec.ofBool bitIn) (v.getLsbD 7)

/-- A shift right (R549): `bitIn ++ v[7:1]`, the old bit 0 into the carry. -/
def shiftRight (v : Byte) (bitIn : Bool) : Alu := Alu.of (BitVec.ofBool bitIn ++ v.extractLsb' 1 7) (v.getLsbD 0)

end Sys2Proof.Machine
end

