-- ==== Sys2Proof/Config.lean ====
section
/-!
DEFINITION. The configuration record `Cfg` (spec 00_scope.md R10 to R19), its two presets, and the model's free values.
-/
namespace Sys2Proof

/-- Legal values of `SCRATCH_SIZE` (R15). -/
inductive ScratchSize where
  | b64
  | b128
  | b256
  deriving DecidableEq, Repr

/-- The number of scratch-pad locations (R15). -/
def ScratchSize.bytes : ScratchSize → Nat
  | .b64 => 64
  | .b128 => 128
  | .b256 => 256

/-- The configuration record of a core (R10 to R18): fixed before a run, never written by it (R101). -/
structure Cfg where
  /-- `STRICT_DECODE` (R10). -/
  strictDecode : Bool
  /-- `HAS_BANK` (R11). -/
  hasBank : Bool
  /-- `HAS_CY_OPS` (R12). -/
  hasCyOps : Bool
  /-- `HAS_INDIRECT` (R13). -/
  hasIndirect : Bool
  /-- `KCPSM6_EXTRAS` (R14). -/
  kcpsm6Extras : Bool
  /-- `SCRATCH_SIZE` (R15). -/
  scratchSize : ScratchSize
  /-- `STACK_DEPTH` (R16): legal from 1 on, see `Cfg.wf`. -/
  stackDepth : Nat
  /-- `INT_VECTOR` (R17), an OPEN parameter. -/
  intVector : Addr
  /-- `HWBUILD_ID` (R18), an OPEN parameter. -/
  hwbuildId : Byte
  deriving DecidableEq, Repr

/-- The `BASE` preset (R19) for a choice of the two OPEN fields. -/
def Cfg.base (vector : Addr) (id : Byte) : Cfg :=
  { strictDecode := false, hasBank := false, hasCyOps := false, hasIndirect := false
    kcpsm6Extras := false, scratchSize := .b64, stackDepth := 32, intVector := vector, hwbuildId := id }

/-- The `EXTENDED` preset (R19) for a choice of the two OPEN fields. -/
def Cfg.extended (vector : Addr) (id : Byte) : Cfg :=
  { Cfg.base vector id with hasBank := true, hasCyOps := true, hasIndirect := true }

/-- The same core with every gate of R310 open, so that every row of the opcode table is assigned. -/
def Cfg.openGates (k : Cfg) : Cfg :=
  { k with hasBank := true, hasCyOps := true, hasIndirect := true, kcpsm6Extras := true }

/-- FREE VALUE. The interrupt vector of the core that `State.reset` describes: the spec leaves it OPEN (R17).
DESIGN CHOICE, log entry 2; safe. -/
opaque Config.intVector : Addr

/-- FREE VALUE. The build identifier of the core that `State.reset` describes: the spec leaves it OPEN (R18).
DESIGN CHOICE, log entry 2; safe. -/
opaque Config.hwbuildId : Byte

/-- FREE VALUE. What the read callback of device `device` answers for `index` on the `draw`-th device read of a run:
any 8-bit value (20_memory.md R231). DESIGN CHOICE, log entry 5; safe. -/
opaque Config.deviceValue (draw device index : Nat) : Byte

end Sys2Proof
end

