-- ==== Sys2Proof/Syntax.lean ====
section
/-!
DEFINITION. The instructions: one constructor per row of spec/opcode_table.json (spec 30_encoding.md R310, R311).
-/
namespace Sys2Proof

/-- An instruction. `x` and `y` are the registers `sX` and `sY`, `kk` an immediate byte (R304), `aaa` a 12-bit
absolute address (R305). A `Reg` form takes operand B from `sY`, an `Imm` form from `kk`. -/
inductive Instr where
  | loadReg (x y : Reg)
  | loadImm (x : Reg) (kk : Byte)
  | andReg (x y : Reg)
  | andImm (x : Reg) (kk : Byte)
  | orReg (x y : Reg)
  | orImm (x : Reg) (kk : Byte)
  | xorReg (x y : Reg)
  | xorImm (x : Reg) (kk : Byte)
  | inputReg (x y : Reg)
  | inputImm (x : Reg) (pp : Byte)
  | fetchReg (x y : Reg)
  | fetchImm (x : Reg) (ss : Byte)
  | testReg (x y : Reg)
  | testImm (x : Reg) (kk : Byte)
  | testcyReg (x y : Reg)
  | testcyImm (x : Reg) (kk : Byte)
  | addReg (x y : Reg)
  | addImm (x : Reg) (kk : Byte)
  | addcyReg (x y : Reg)
  | addcyImm (x : Reg) (kk : Byte)
  | sla (x : Reg)
  | rl (x : Reg)
  | slx (x : Reg)
  | sl0 (x : Reg)
  | sl1 (x : Reg)
  | sra (x : Reg)
  | srx (x : Reg)
  | rr (x : Reg)
  | sr0 (x : Reg)
  | sr1 (x : Reg)
  | hwbuild (x : Reg)
  | starReg (x y : Reg)
  | starImm (x : Reg) (kk : Byte)
  | subReg (x y : Reg)
  | subImm (x : Reg) (kk : Byte)
  | subcyReg (x y : Reg)
  | subcyImm (x : Reg) (kk : Byte)
  | compareReg (x y : Reg)
  | compareImm (x : Reg) (kk : Byte)
  | comparecyReg (x y : Reg)
  | comparecyImm (x : Reg) (kk : Byte)
  | call (aaa : Addr)
  | loadReturn (x : Reg) (kk : Byte)
  | jump (aaa : Addr)
  | callAt (x y : Reg)
  | ret
  | jumpAt (x y : Reg)
  | disableInterrupt
  | enableInterrupt
  | returniDisable
  | returniEnable
  /-- `kx` is the constant, `p` the 4-bit port (R303, R611). -/
  | outputk (kx : Byte) (p : BitVec 4)
  | outputReg (x y : Reg)
  | outputImm (x : Reg) (pp : Byte)
  | storeReg (x y : Reg)
  | storeImm (x : Reg) (ss : Byte)
  | callZ (aaa : Addr)
  | retZ
  | jumpZ (aaa : Addr)
  | callNZ (aaa : Addr)
  | retNZ
  | jumpNZ (aaa : Addr)
  | regbankA
  | regbankB
  | callC (aaa : Addr)
  | retC
  | jumpC (aaa : Addr)
  | callNC (aaa : Addr)
  | retNC
  | jumpNC (aaa : Addr)
  deriving DecidableEq, Repr

end Sys2Proof
end

