-- ==== Sys2Proof/WellFormed.lean ====
section
/-!
DEFINITION. Which configurations are legal (spec 00_scope.md R16) and which instructions a configuration has
(the gates of 00_scope.md R11 to R14 and 30_encoding.md R310). Every operand field of `Instr` has exactly its width in
the word, so an operand cannot be ill-formed.
-/
namespace Sys2Proof

/-- A legal configuration: `STACK_DEPTH` is 1 or above (R16). `SCRATCH_SIZE` is legal by its type (R15). -/
def Cfg.wf (k : Cfg) : Bool := decide (1 ≤ k.stackDepth)

/-- The instruction exists in a core with configuration `k`: its gate in R310 is true. -/
def Instr.wf (k : Cfg) : Instr → Bool
  | .testcyReg _ _ | .testcyImm _ _ | .comparecyReg _ _ | .comparecyImm _ _ => k.hasCyOps
  | .callAt _ _ | .jumpAt _ _ => k.hasIndirect
  | .hwbuild _ | .regbankA | .regbankB => k.hasBank
  | .starReg _ _ | .starImm _ _ => k.kcpsm6Extras && k.hasBank
  | .outputk _ _ | .loadReturn _ _ => k.kcpsm6Extras
  | .loadReg _ _ | .loadImm _ _ | .andReg _ _ | .andImm _ _ | .orReg _ _ | .orImm _ _ | .xorReg _ _ | .xorImm _ _
  | .inputReg _ _ | .inputImm _ _ | .fetchReg _ _ | .fetchImm _ _ | .testReg _ _ | .testImm _ _
  | .addReg _ _ | .addImm _ _ | .addcyReg _ _ | .addcyImm _ _
  | .sla _ | .rl _ | .slx _ | .sl0 _ | .sl1 _ | .sra _ | .srx _ | .rr _ | .sr0 _ | .sr1 _
  | .subReg _ _ | .subImm _ _ | .subcyReg _ _ | .subcyImm _ _ | .compareReg _ _ | .compareImm _ _
  | .call _ | .jump _ | .ret | .disableInterrupt | .enableInterrupt | .returniDisable | .returniEnable
  | .outputReg _ _ | .outputImm _ _ | .storeReg _ _ | .storeImm _ _
  | .callZ _ | .retZ | .jumpZ _ | .callNZ _ | .retNZ | .jumpNZ _
  | .callC _ | .retC | .jumpC _ | .callNC _ | .retNC | .jumpNC _ => true

end Sys2Proof
end

