-- ==== Sys2Proof/Decode.lean ====
section
/-!
DEFINITION. Decode and encode (spec 30_encoding.md R303 to R320). The opcode values are the spec's general-knowledge
map (93_implementation_defined.md G1 to G4), taken as the spec gives them (log entry 4).
-/
namespace Sys2Proof

/-- What a word decodes to: an instruction of R310 or R311, or `Unassigned(w)` (R320). -/
inductive Decoded where
  | instr (i : Instr)
  | unassigned (w : InsnWord)
  deriving DecidableEq, Repr

/-- Field `op`, `w[17:12]` (R303). -/
def fieldOp (w : InsnWord) : BitVec 6 := w.extractLsb' 12 6
/-- Field `X`, `w[11:8]` (R303). -/
def fieldX (w : InsnWord) : Reg := w.extractLsb' 8 4
/-- Field `Y`, `w[7:4]` (R303). -/
def fieldY (w : InsnWord) : Reg := w.extractLsb' 4 4
/-- Field `kk`, `w[7:0]` (R303). -/
def fieldKK (w : InsnWord) : Byte := w.extractLsb' 0 8
/-- Field `code`, `w[3:0]` (R303). -/
def fieldCode (w : InsnWord) : BitVec 4 := w.extractLsb' 0 4
/-- Field `aaa`, `w[11:0]` (R303). -/
def fieldAAA (w : InsnWord) : Addr := w.extractLsb' 0 12
/-- Field `b`, `w[0]` (R303). -/
def fieldB (w : InsnWord) : Bool := w.getLsbD 0
/-- Field `kx` of `OUTPUTK`, `w[11:4]` (R303). -/
def fieldKX (w : InsnWord) : Byte := w.extractLsb' 4 8
/-- Field `p` of `OUTPUTK`, `w[3:0]` (R303). -/
def fieldP (w : InsnWord) : BitVec 4 := w.extractLsb' 0 4

/-- An instruction whose gate is `g`: assigned when the gate is true, otherwise `Unassigned(w)` (R320). -/
def gated (g : Bool) (w : InsnWord) (i : Instr) : Decoded := if g then .instr i else .unassigned w

/-- The shift sub-map of `op = 0x14` (R311), with `HWBUILD` first when `HAS_BANK` (R320). -/
def decodeShift (k : Cfg) (w : InsnWord) : Decoded :=
  if k.hasBank && fieldKK w == 0x80#8 then .instr (.hwbuild (fieldX w)) else
  match (fieldCode w).toNat with
  | 0x0 => .instr (.sla (fieldX w))
  | 0x2 => .instr (.rl (fieldX w))
  | 0x4 => .instr (.slx (fieldX w))
  | 0x6 => .instr (.sl0 (fieldX w))
  | 0x7 => .instr (.sl1 (fieldX w))
  | 0x8 => .instr (.sra (fieldX w))
  | 0xA => .instr (.srx (fieldX w))
  | 0xC => .instr (.rr (fieldX w))
  | 0xE => .instr (.sr0 (fieldX w))
  | 0xF => .instr (.sr1 (fieldX w))
  | _ => .unassigned w

/-- `decode(w)` (R320): total, a function of the word and the configuration alone (R321). Bits outside the fields of
the word's format are ignored (R306). -/
def decode (k : Cfg) (w : InsnWord) : Decoded :=
  match (fieldOp w).toNat with
  | 0x00 => .instr (.loadReg (fieldX w) (fieldY w))
  | 0x01 => .instr (.loadImm (fieldX w) (fieldKK w))
  | 0x02 => .instr (.andReg (fieldX w) (fieldY w))
  | 0x03 => .instr (.andImm (fieldX w) (fieldKK w))
  | 0x04 => .instr (.orReg (fieldX w) (fieldY w))
  | 0x05 => .instr (.orImm (fieldX w) (fieldKK w))
  | 0x06 => .instr (.xorReg (fieldX w) (fieldY w))
  | 0x07 => .instr (.xorImm (fieldX w) (fieldKK w))
  | 0x08 => .instr (.inputReg (fieldX w) (fieldY w))
  | 0x09 => .instr (.inputImm (fieldX w) (fieldKK w))
  | 0x0A => .instr (.fetchReg (fieldX w) (fieldY w))
  | 0x0B => .instr (.fetchImm (fieldX w) (fieldKK w))
  | 0x0C => .instr (.testReg (fieldX w) (fieldY w))
  | 0x0D => .instr (.testImm (fieldX w) (fieldKK w))
  | 0x0E => gated k.hasCyOps w (.testcyReg (fieldX w) (fieldY w))
  | 0x0F => gated k.hasCyOps w (.testcyImm (fieldX w) (fieldKK w))
  | 0x10 => .instr (.addReg (fieldX w) (fieldY w))
  | 0x11 => .instr (.addImm (fieldX w) (fieldKK w))
  | 0x12 => .instr (.addcyReg (fieldX w) (fieldY w))
  | 0x13 => .instr (.addcyImm (fieldX w) (fieldKK w))
  | 0x14 => decodeShift k w
  | 0x16 => gated (k.kcpsm6Extras && k.hasBank) w (.starReg (fieldX w) (fieldY w))
  | 0x17 => gated (k.kcpsm6Extras && k.hasBank) w (.starImm (fieldX w) (fieldKK w))
  | 0x18 => .instr (.subReg (fieldX w) (fieldY w))
  | 0x19 => .instr (.subImm (fieldX w) (fieldKK w))
  | 0x1A => .instr (.subcyReg (fieldX w) (fieldY w))
  | 0x1B => .instr (.subcyImm (fieldX w) (fieldKK w))
  | 0x1C => .instr (.compareReg (fieldX w) (fieldY w))
  | 0x1D => .instr (.compareImm (fieldX w) (fieldKK w))
  | 0x1E => gated k.hasCyOps w (.comparecyReg (fieldX w) (fieldY w))
  | 0x1F => gated k.hasCyOps w (.comparecyImm (fieldX w) (fieldKK w))
  | 0x20 => .instr (.call (fieldAAA w))
  | 0x21 => gated k.kcpsm6Extras w (.loadReturn (fieldX w) (fieldKK w))
  | 0x22 => .instr (.jump (fieldAAA w))
  | 0x24 => gated k.hasIndirect w (.callAt (fieldX w) (fieldY w))
  | 0x25 => .instr .ret
  | 0x26 => gated k.hasIndirect w (.jumpAt (fieldX w) (fieldY w))
  | 0x28 => .instr (if fieldB w then .enableInterrupt else .disableInterrupt)
  | 0x29 => .instr (if fieldB w then .returniEnable else .returniDisable)
  | 0x2B => gated k.kcpsm6Extras w (.outputk (fieldKX w) (fieldP w))
  | 0x2C => .instr (.outputReg (fieldX w) (fieldY w))
  | 0x2D => .instr (.outputImm (fieldX w) (fieldKK w))
  | 0x2E => .instr (.storeReg (fieldX w) (fieldY w))
  | 0x2F => .instr (.storeImm (fieldX w) (fieldKK w))
  | 0x30 => .instr (.callZ (fieldAAA w))
  | 0x31 => .instr .retZ
  | 0x32 => .instr (.jumpZ (fieldAAA w))
  | 0x34 => .instr (.callNZ (fieldAAA w))
  | 0x35 => .instr .retNZ
  | 0x36 => .instr (.jumpNZ (fieldAAA w))
  | 0x37 => gated k.hasBank w (if fieldB w then .regbankB else .regbankA)
  | 0x38 => .instr (.callC (fieldAAA w))
  | 0x39 => .instr .retC
  | 0x3A => .instr (.jumpC (fieldAAA w))
  | 0x3C => .instr (.callNC (fieldAAA w))
  | 0x3D => .instr .retNC
  | 0x3E => .instr (.jumpNC (fieldAAA w))
  | _ => .unassigned w

/-! The formats of R307, each as the word it lays out; ignored positions are written 0. -/

/-- Format `RR`: `op[6] X[4] Y[4] ----`. -/
def wordRR (op : BitVec 6) (x y : Reg) : InsnWord := op ++ x ++ y ++ 0#4
/-- Format `RK`: `op[6] X[4] kk[8]`. -/
def wordRK (op : BitVec 6) (x : Reg) (kk : Byte) : InsnWord := op ++ x ++ kk
/-- Format `SH`: `010100 X[4] ---- code[4]`. -/
def wordSH (x : Reg) (code : BitVec 4) : InsnWord := 0b010100#6 ++ x ++ 0#4 ++ code
/-- Format `JA`: `op[6] aaa[12]`. -/
def wordJA (op : BitVec 6) (aaa : Addr) : InsnWord := op ++ aaa
/-- Format `RT`: `op[6] ------------`. -/
def wordRT (op : BitVec 6) : InsnWord := op ++ 0#12
/-- Format `B1`: `op[6] ----------- b`. -/
def wordB1 (op : BitVec 6) (b : Bool) : InsnWord := op ++ 0#11 ++ BitVec.ofBool b
/-- Format `KP`: `op[6] kx[8] p[4]`. -/
def wordKP (op : BitVec 6) (kx : Byte) (p : BitVec 4) : InsnWord := op ++ kx ++ p

/-- The word an instruction is assembled to (R307, R310, R311), ignored bits 0. -/
def encode : Instr → InsnWord
  | .loadReg x y => wordRR 0x00#6 x y
  | .loadImm x kk => wordRK 0x01#6 x kk
  | .andReg x y => wordRR 0x02#6 x y
  | .andImm x kk => wordRK 0x03#6 x kk
  | .orReg x y => wordRR 0x04#6 x y
  | .orImm x kk => wordRK 0x05#6 x kk
  | .xorReg x y => wordRR 0x06#6 x y
  | .xorImm x kk => wordRK 0x07#6 x kk
  | .inputReg x y => wordRR 0x08#6 x y
  | .inputImm x pp => wordRK 0x09#6 x pp
  | .fetchReg x y => wordRR 0x0A#6 x y
  | .fetchImm x ss => wordRK 0x0B#6 x ss
  | .testReg x y => wordRR 0x0C#6 x y
  | .testImm x kk => wordRK 0x0D#6 x kk
  | .testcyReg x y => wordRR 0x0E#6 x y
  | .testcyImm x kk => wordRK 0x0F#6 x kk
  | .addReg x y => wordRR 0x10#6 x y
  | .addImm x kk => wordRK 0x11#6 x kk
  | .addcyReg x y => wordRR 0x12#6 x y
  | .addcyImm x kk => wordRK 0x13#6 x kk
  | .sla x => wordSH x 0x0#4
  | .rl x => wordSH x 0x2#4
  | .slx x => wordSH x 0x4#4
  | .sl0 x => wordSH x 0x6#4
  | .sl1 x => wordSH x 0x7#4
  | .sra x => wordSH x 0x8#4
  | .srx x => wordSH x 0xA#4
  | .rr x => wordSH x 0xC#4
  | .sr0 x => wordSH x 0xE#4
  | .sr1 x => wordSH x 0xF#4
  | .hwbuild x => wordRK 0x14#6 x 0x80#8
  | .starReg x y => wordRR 0x16#6 x y
  | .starImm x kk => wordRK 0x17#6 x kk
  | .subReg x y => wordRR 0x18#6 x y
  | .subImm x kk => wordRK 0x19#6 x kk
  | .subcyReg x y => wordRR 0x1A#6 x y
  | .subcyImm x kk => wordRK 0x1B#6 x kk
  | .compareReg x y => wordRR 0x1C#6 x y
  | .compareImm x kk => wordRK 0x1D#6 x kk
  | .comparecyReg x y => wordRR 0x1E#6 x y
  | .comparecyImm x kk => wordRK 0x1F#6 x kk
  | .call aaa => wordJA 0x20#6 aaa
  | .loadReturn x kk => wordRK 0x21#6 x kk
  | .jump aaa => wordJA 0x22#6 aaa
  | .callAt x y => wordRR 0x24#6 x y
  | .ret => wordRT 0x25#6
  | .jumpAt x y => wordRR 0x26#6 x y
  | .disableInterrupt => wordB1 0x28#6 false
  | .enableInterrupt => wordB1 0x28#6 true
  | .returniDisable => wordB1 0x29#6 false
  | .returniEnable => wordB1 0x29#6 true
  | .outputk kx p => wordKP 0x2B#6 kx p
  | .outputReg x y => wordRR 0x2C#6 x y
  | .outputImm x pp => wordRK 0x2D#6 x pp
  | .storeReg x y => wordRR 0x2E#6 x y
  | .storeImm x ss => wordRK 0x2F#6 x ss
  | .callZ aaa => wordJA 0x30#6 aaa
  | .retZ => wordRT 0x31#6
  | .jumpZ aaa => wordJA 0x32#6 aaa
  | .callNZ aaa => wordJA 0x34#6 aaa
  | .retNZ => wordRT 0x35#6
  | .jumpNZ aaa => wordJA 0x36#6 aaa
  | .regbankA => wordB1 0x37#6 false
  | .regbankB => wordB1 0x37#6 true
  | .callC aaa => wordJA 0x38#6 aaa
  | .retC => wordRT 0x39#6
  | .jumpC aaa => wordJA 0x3A#6 aaa
  | .callNC aaa => wordJA 0x3C#6 aaa
  | .retNC => wordRT 0x3D#6
  | .jumpNC aaa => wordJA 0x3E#6 aaa

/-- The host's question about one row of the opcode table: what the decoder reads from the word `w` in a core with every
gate of R310 open, as the table lists every row. The core fetches a word as one 18-bit unit (R220, R300), so `nbits`
adds nothing; a number wider than 18 bits is no word. -/
def decodeTableWord (_nbits w : Nat) : Option Instr :=
  if w < 2 ^ 18 then
    match decode (Cfg.openGates (Cfg.extended 0#12 0#8)) (BitVec.ofNat 18 w) with
    | .instr i => some i
    | .unassigned _ => none
  else none

end Sys2Proof
end

