-- ==== Sys2Proof/Machine/Memory.lean ====
section
/-!
DEFINITION. Sparse tables and sparse memories as lists in one canonical form: program memory (spec 10_state.md R131), the
scratch pad (R130) and the router tables (R132).
-/
namespace Sys2Proof.Machine

/-- The entry of a table at key `k`, if it has one. -/
def Sparse.lookup {α : Type} : List (Nat × α) → Nat → Option α
  | [], _ => none
  | (j, u) :: rest, k => if j = k then some u else Sparse.lookup rest k

/-- The table with entry `v` at key `k`, in place of any entry it had there; rising keys stay rising. -/
def Sparse.insert {α : Type} : List (Nat × α) → Nat → α → List (Nat × α)
  | [], k, v => [(k, v)]
  | (j, u) :: rest, k, v =>
    if k < j then (k, v) :: (j, u) :: rest
    else if j = k then (k, v) :: rest
    else (j, u) :: Sparse.insert rest k v

/-- The table without an entry at key `k`. -/
def Sparse.erase {α : Type} (m : List (Nat × α)) (k : Nat) : List (Nat × α) := m.filter fun e => e.1 != k

/-- The canonical form of a table: keys strictly rising. -/
abbrev Sparse.rising {α : Type} (m : List (Nat × α)) : Prop := m.Pairwise fun e f => e.1 < f.1

/-- Every key of the table lies below `n`. -/
abbrev Sparse.below {α : Type} (n : Nat) (m : List (Nat × α)) : Prop := ∀ e ∈ m, e.1 < n

/-- The table with the entry `v`, or without an entry, at key `k`. -/
def Sparse.put {α : Type} (m : List (Nat × α)) (k : Nat) (v : Option α) : List (Nat × α) :=
  match v with
  | some u => Sparse.insert m k u
  | none => Sparse.erase m k

/-- What the memory holds at `k`. An unlisted scratch-pad location holds 0x00 (R150, log entry 8). -/
def Memory.read {w : Nat} (m : List (Nat × BitVec w)) (k : Nat) : BitVec w := (Sparse.lookup m k).getD 0#w

/-- The memory with `v` at `k`; writing what an unlisted address reads as removes the entry. -/
def Memory.write {w : Nat} (m : List (Nat × BitVec w)) (k : Nat) (v : BitVec w) : List (Nat × BitVec w) :=
  if v = 0#w then Sparse.erase m k else Sparse.insert m k v

/-- The canonical form of a memory: addresses strictly rising, no entry equal to what an unlisted address reads as. -/
abbrev Memory.wf {w : Nat} (m : List (Nat × BitVec w)) : Prop := Sparse.rising m ∧ ∀ e ∈ m, e.2 ≠ 0#w

end Sys2Proof.Machine
end

