-- ==== Sys2Proof/Machine/State.lean ====
section
/-!
DEFINITION. The state of nBlazeSim CORE as plain data (spec 10_state.md R100 to R150), the ways a step can stop, and the
state after reset.
-/
namespace Sys2Proof.Machine

/-- `BANK`: which register bank is active, 0 for A and 1 for B (R103). -/
inductive Bank where
  | a
  | b
  deriving DecidableEq, Repr

/-- What a frame of the extended variant holds besides its address (R120): the flags and the bank selector when it was
pushed, and whether an interrupt entry pushed it. -/
structure Snapshot where
  z : Bool
  c : Bool
  bank : Bank
  isInt : Bool
  deriving DecidableEq, Repr

/-- One entry of the call/return stack (R120). `snap` is present exactly when `HAS_BANK` (log entry 12). -/
structure Frame where
  addr : Addr
  snap : Option Snapshot
  deriving DecidableEq, Repr

/-- An entry of a router table: the device and the device-local index a port address is bound to (R132). -/
structure Route where
  device : Nat
  index : Nat
  deriving DecidableEq, Repr

/-- The direction of a port access, and of a router table (R132, R242). -/
inductive Dir where
  | read
  | write
  deriving DecidableEq, Repr

/-- A device's declared capability (R241). -/
inductive Capability where
  | read
  | write
  | both
  deriving DecidableEq, Repr

/-- An attached device (R241). `id` names its pair of callbacks, which are outside the core (R8, log entry 16);
`spec` is its address-specification string (R242). -/
structure Device where
  id : Nat
  spec : List Char
  capability : Capability
  deriving DecidableEq, Repr

/-- The two stack faults (R801). -/
inductive StackFaultKind where
  | overflow
  | underflow
  deriving DecidableEq, Repr

/-- An entry of the event log (R140, R801). -/
inductive Event where
  /-- Codes 1 and 2: a stack fault reset the core; the pc of the instruction or of the entry. -/
  | stackFault (kind : StackFaultKind) (pc : Addr)
  /-- Code 3: an unassigned word ran as a no-op. -/
  | unassigned (w : InsnWord) (a : Addr)
  /-- Code 6: a completed interrupt entry and the preempted pc. -/
  | interruptEntry (pc : Addr)
  /-- Code 7: a port access: direction, router address, the device and index bound to it or none, and the value. -/
  | portAccess (dir : Dir) (port : Addr) (route : Option Route) (value : Byte)
  deriving DecidableEq, Repr

/-- The final faults of strict mode. They exist only with `STRICT_DECODE`, and the machine takes no step after one. -/
inductive Fault where
  /-- Code 4 (R806): raised by `step` on an unassigned word at `a`. Safe: the spec names this fault. -/
  | unassignedOpcode (w : InsnWord) (a : Addr)
  /-- Code 5 (R807): raised by `RETURNI` popping a frame that no interrupt pushed. Safe: the spec names this fault. -/
  | frameMismatch (f : Frame)
  deriving DecidableEq, Repr

/-- Why an instruction has no meaning in the model. -/
inductive Refusal where
  /-- Raised by an arm of `exec` whose instruction has no meaning yet; no arm answers with it. Safe. -/
  | notModelled (mnemonic : String)
  deriving DecidableEq, Repr

/-- The whole machine. The architectural state is R100's list; `cfg`, `pm`, `devices`, `rt` and `wt` are the parameters
of the step (R101, log entry 1); `log` is the event log (R140); `draws` is the model's own (log entry 5). -/
structure State where
  /-- The configuration record (00_scope.md R10 to R19). -/
  cfg : Cfg
  /-- Program memory `PM` (R131): the assigned addresses, rising, each with its word, which may be `0x00000`; an address
  that is not listed is unassigned. -/
  pm : List (Nat × InsnWord)
  /-- The attached devices in registration order (20_memory.md R241). -/
  devices : List Device
  /-- The router's read table (R132). -/
  rt : List (Nat × Route)
  /-- The router's write table (R132). -/
  wt : List (Nat × Route)
  /-- Program counter (R106). -/
  pc : Addr
  /-- Register bank A (R102). -/
  regsA : RegFile
  /-- Register bank B (R102); without `HAS_BANK` there is none, and nothing reads or writes this field (R103). -/
  regsB : RegFile
  /-- `BANK` (R103). -/
  bank : Bank
  /-- Scratch pad `SP` (R130): location and byte, locations rising, no byte `0x00` (log entry 8). -/
  sp : List Host.Cell
  /-- Zero flag (R107). -/
  z : Bool
  /-- Carry flag (R108). -/
  c : Bool
  /-- Interrupt enable (R110). -/
  ie : Bool
  /-- Interrupt-request latch (R111). -/
  irq : Bool
  /-- Call/return stack `STK`, bottom first (R120). -/
  stk : List Frame
  /-- Event log, oldest first (R140). -/
  log : List Event
  /-- How many device reads were made: the number of the next draw. -/
  draws : Nat
  deriving DecidableEq, Repr

/-- What one step or one meaning answers. -/
abbrev Result := Host.Outcome State Fault Refusal

/-- A register bank with every register 0x00 (R150). -/
def zeroRegs : RegFile := Vector.replicate 16 0#8

/-- The machine at power-on (R150, R902; 70_reset_and_hazards.md R900): every architectural field at its reset value,
an empty event log, no program loaded and no device attached (R903). The configuration is the `EXTENDED` preset
(log entry 3) with the OPEN fields free (log entry 2). -/
def State.reset : State :=
  { cfg := Cfg.extended Config.intVector Config.hwbuildId
    pm := [], devices := [], rt := [], wt := []
    pc := 0x000#12, regsA := zeroRegs, regsB := zeroRegs, bank := .a, sp := []
    z := false, c := false, ie := false, irq := false, stk := [], log := [], draws := 0 }

end Sys2Proof.Machine
end

