-- ==== Sys2Proof/Machine/Ops.lean ====
section
/-!
DEFINITION. The named operations every meaning is made of: registers and banks, flags, scratch pad, fetch, the
call/return stack, ports, the event log, reset, interrupt entry and return from interrupt.
-/
namespace Sys2Proof.Machine

/-! Registers (spec 10_state.md R102 to R104). -/

/-- Register `r` of a bank. -/
def RegFile.get (f : RegFile) (r : Reg) : Byte := f[r.toNat]

/-- The bank with `v` in register `r`. -/
def RegFile.put (f : RegFile) (r : Reg) (v : Byte) : RegFile := f.set r.toNat v

/-- The active bank: `BANK`, hard-wired to A without `HAS_BANK` (R103). -/
def State.activeBank (s : State) : Bank := if s.cfg.hasBank then s.bank else .a

/-- Register `r` of bank `k`. -/
def State.reg (s : State) (k : Bank) (r : Reg) : Byte :=
  match k with
  | .a => RegFile.get s.regsA r
  | .b => RegFile.get s.regsB r

/-- `x[r]`: register `r` of the active bank (R104). -/
def State.x (s : State) (r : Reg) : Byte := s.reg s.activeBank r

/-- `x[r] <- v`: write register `r` of the active bank (R104). -/
def State.setX (s : State) (r : Reg) (v : Byte) : State :=
  { s with
    regsA := if s.activeBank = .a then RegFile.put s.regsA r v else s.regsA
    regsB := if s.activeBank = .a then s.regsB else RegFile.put s.regsB r v }

/-- Write register `r` of the inactive bank (45_bank.md R655); without `HAS_BANK` there is no other bank to write (R103). -/
def State.setInactive (s : State) (r : Reg) (v : Byte) : State :=
  { s with
    regsA := if s.activeBank = .b then RegFile.put s.regsA r v else s.regsA
    regsB := if s.cfg.hasBank && s.bank = .a then RegFile.put s.regsB r v else s.regsB }

/-- `BANK <- k`; without `HAS_BANK` it stays 0 (R103). -/
def State.setBank (s : State) (k : Bank) : State := { s with bank := if s.cfg.hasBank then k else .a }

/-- The source's active-bank indicator becomes `k` while its active and shadow files stay (R105): in the two-bank form, a
changed indicator exchanges the banks. Only the host does this (60_exceptions.md R823). -/
def State.setActiveFlag (s : State) (k : Bank) : State :=
  { s with
    regsA := if k = s.activeBank then s.regsA else s.regsB
    regsB := if k = s.activeBank then s.regsB else s.regsA
    bank := if s.cfg.hasBank then k else .a }

/-! Program counter, flags, interrupt bits. -/

/-- `pc <- t`. -/
def State.setPc (s : State) (t : Addr) : State := { s with pc := t }

/-- `pc <- (pc + 1) mod 4096` (R106): the advance the fetch makes (30_encoding.md R302). -/
def State.advance (s : State) : State := s.setPc (s.pc + 1#12)

/-- `Z <- z; C <- c` (R107, R108). -/
def State.setFlags (s : State) (z c : Bool) : State := { s with z := z, c := c }

/-- `IE <- v` (R110). -/
def State.setIe (s : State) (v : Bool) : State := { s with ie := v }

/-- `IRQ <- v` (R111). -/
def State.setIrq (s : State) (v : Bool) : State := { s with irq := v }

/-- Append an entry to the event log (R140). -/
def State.record (s : State) (e : Event) : State := { s with log := s.log ++ [e] }

/-! Scratch pad and program memory (20_memory.md). -/

/-- The location an 8-bit address reaches: `addr mod SCRATCH_SIZE` (R210). -/
def State.scratchIndex (s : State) (addr : Byte) : Nat := addr.toNat % s.cfg.scratchSize.bytes

/-- `MemRead(addr, 1)` (R210). -/
def State.memRead (s : State) (addr : Byte) : Byte := Memory.read s.sp (s.scratchIndex addr)

/-- `MemWrite(addr, 1, v)` (R211). -/
def State.memWrite (s : State) (addr v : Byte) : State :=
  { s with sp := Memory.write s.sp (s.scratchIndex addr) v }

/-- The entry of `PM` at `a`: a word, or unassigned (10_state.md R131). -/
def State.pmAt (s : State) (a : Addr) : Option InsnWord := Sparse.lookup s.pm a.toNat

/-- `PM[a]` as fetch reads it, 0x00000 where nothing is assigned (R201). -/
def State.pmRead (s : State) (a : Addr) : InsnWord := (s.pmAt a).getD 0x00000#18

/-- The entry of `PM` at `a` becomes `e`, a word or unassigned; only the host does this (R202). -/
def State.assign (s : State) (a : Addr) (e : Option InsnWord) : State := { s with pm := Sparse.put s.pm a.toNat e }

/-- The word the next cycle fetches (30_encoding.md R302). -/
def State.fetch (s : State) : InsnWord := s.pmRead s.pc

/-! Reset and stack faults (70_reset_and_hazards.md R900, 60_exceptions.md R804). -/

/-- `reset()` (R900): every architectural field at its value in 10_state.md R150, nothing else changed. -/
def State.resetCore (s : State) : State :=
  { s with
    pc := 0x000#12, regsA := zeroRegs, regsB := zeroRegs, bank := .a, sp := []
    z := false, c := false, ie := false, irq := false, stk := [] }

/-- `raise StackFault(k)` of the instruction or entry at `a` (R804): logged, and the core resets. -/
def State.stackFault (s : State) (k : StackFaultKind) (a : Addr) : State :=
  (s.record (.stackFault k a)).resetCore

/-! Call/return stack (10_state.md R120 to R124). -/

/-- `STK <- l`. -/
def State.setStk (s : State) (l : List Frame) : State := { s with stk := l }

/-- `Push(f)` (R122); `none` is `StackFault(Overflow)`. -/
def State.push (s : State) (f : Frame) : Option State :=
  if s.stk.length = s.cfg.stackDepth then none else some (s.setStk (s.stk ++ [f]))

/-- `Pop()` (R123): the top frame and the state without it; `none` is `StackFault(Underflow)`. -/
def State.pop (s : State) : Option (Frame × State) :=
  match s.stk.getLast? with
  | none => none
  | some f => some (f, s.setStk s.stk.dropLast)

/-- A frame at `a` of the state's flags and bank (R124): the address alone without `HAS_BANK`. -/
def State.frame (s : State) (a : Addr) (isInt : Bool) : Frame :=
  { addr := a
    snap := if s.cfg.hasBank then some { z := s.z, c := s.c, bank := s.bank, isInt := isInt } else none }

/-- `CallFrame(a)` of the instruction at `pc`: it holds the call site (R124). -/
def State.callFrame (s : State) : Frame := s.frame s.pc false

/-- `IntFrame` (R124): it holds the address whose fetch the entry suppresses. -/
def State.intFrame (s : State) : Frame := s.frame s.pc true

/-- The tag of a frame (R120); a frame of the base variant has none. -/
def Frame.isInt (f : Frame) : Bool :=
  match f.snap with
  | some p => p.isInt
  | none => false

/-! Ports (20_memory.md R230 to R234). -/

/-- The router address of an 8-bit port number: `zext_12(p)` (R230). -/
def portAddr (p : Byte) : Addr := p.setWidth 12

/-- Move on to the next draw of a device value (log entry 5). -/
def State.nextDraw (s : State) : State := { s with draws := s.draws + 1 }

/-- `PortRead(p)` (R230, R231, R233): one read dispatch, logged. A bound port answers the device's value, a draw; an
unbound one answers 0. -/
def State.portRead (s : State) (p : Byte) : Byte × State :=
  match Sparse.lookup s.rt (portAddr p).toNat with
  | some r =>
    let v := Config.deviceValue s.draws r.device r.index
    (v, s.nextDraw.record (.portAccess .read (portAddr p) (some r) v))
  | none => (0#8, s.record (.portAccess .read (portAddr p) none 0#8))

/-- `PortWrite(p, v)` (R232, R233): one write dispatch, logged; what the device does with it is outside the core (R8). -/
def State.portWrite (s : State) (p v : Byte) : State :=
  s.record (.portAccess .write (portAddr p) (Sparse.lookup s.wt (portAddr p).toNat) v)

/-! Interrupts (60_exceptions.md R810, R811; 47_interrupt_ctl.md R783) and unassigned words (30_encoding.md R330). -/

/-- The interrupt check that opens every cycle (R810). -/
def State.interruptTaken (s : State) : Bool := s.ie && s.irq

/-- `interruptEntry()` (R811): `IE` and `IRQ` cleared, an interrupt frame pushed, `pc` at `INT_VECTOR`, logged. On a
full stack the core resets and the request is lost (R814). -/
def State.interruptEntry (s : State) : State :=
  match ((s.setIe false).setIrq false).push s.intFrame with
  | none => s.stackFault .overflow s.pc
  | some t => (t.setPc s.cfg.intVector).record (.interruptEntry s.pc)

/-- Give back the flags and the bank of an interrupt frame (R783); any other frame's are not restored. -/
def State.restore (s : State) (f : Frame) : State :=
  match f.snap with
  | some p => if s.cfg.hasBank && p.isInt then (s.setFlags p.z p.c).setBank p.bank else s
  | none => s

/-- `RETURNI(b)` (R783), the return from interrupt. -/
def State.returnFromInterrupt (s : State) (b : Bool) : Result :=
  match s.pop with
  | none => .next (s.stackFault .underflow s.pc)
  | some (f, t) =>
    if s.cfg.hasBank && !f.isInt && s.cfg.strictDecode then .fault (.frameMismatch f)
    else .next (((t.setPc f.addr).restore f).setIe b)

/-- An `Unassigned(w)` word at `pc` (R330): a logged no-op, or with `STRICT_DECODE` the final fault (R806). -/
def State.runUnassigned (s : State) (w : InsnWord) : Result :=
  if s.cfg.strictDecode then .fault (.unassignedOpcode w s.pc)
  else .next (s.advance.record (.unassigned w s.pc))

end Sys2Proof.Machine
end

