-- ==== Sys2Proof/Machine/Operands.lean ====
section
/-!
DEFINITION. The operand forms: operand B (spec 30_encoding.md R304), the conditions (46_control.md R700) and the
register-indirect target (46_control.md R720).
-/
namespace Sys2Proof.Machine

/-- Operand B of a two-operand instruction: register `sY` or an unsigned immediate (R304). -/
inductive OpB where
  | reg (y : Reg)
  | imm (kk : Byte)
  deriving DecidableEq, Repr

/-- `opB(w)` (R304). It is also the effective address of the memory and port instructions (44_memory_io.md R600). -/
def State.opB (s : State) : OpB → Byte
  | .reg y => s.x y
  | .imm kk => kk

/-- The condition of a conditional jump, call or return (R700). -/
inductive Cond where
  | z
  | nz
  | c
  | nc
  deriving DecidableEq, Repr

/-- `cond(k)` (R700). -/
def Cond.holds (k : Cond) (s : State) : Bool :=
  match k with
  | .z => s.z
  | .nz => !s.z
  | .c => s.c
  | .nc => !s.c

/-- The target of `JUMP@` and `CALL@`: `x[X][3:0] ++ x[Y]` (R720). -/
def State.indirectTarget (s : State) (x y : Reg) : Addr := (s.x x).extractLsb' 0 4 ++ s.x y

/-- The port number of `OUTPUTK`: the 4-bit `p` zero-extended (R305). -/
def outputkPort (p : BitVec 4) : Byte := p.setWidth 8

end Sys2Proof.Machine
end

