-- ==== Sys2Proof/Machine/LoadLogical.lean ====
section
/-!
DEFINITION. Register load and logical instructions (spec 40_load_logical.md R400 to R404).
-/
namespace Sys2Proof.Machine

/-- Write an ALU result to `sX` and its flags, and go on. -/
def State.aluWrite (s : State) (x : Reg) (v : Alu) : Result := .next ((s.setX x v.r).setFlags v.z v.c).advance

/-- `LOAD` (R401): no flag is written. -/
def load (x : Reg) (b : OpB) (s : State) : Result := .next (s.setX x (s.opB b)).advance
/-- `AND` (R402). -/
def logicalAnd (x : Reg) (b : OpB) (s : State) : Result := s.aluWrite x (.of (s.x x &&& s.opB b) false)
/-- `OR` (R403). -/
def logicalOr (x : Reg) (b : OpB) (s : State) : Result := s.aluWrite x (.of (s.x x ||| s.opB b) false)
/-- `XOR` (R404). -/
def logicalXor (x : Reg) (b : OpB) (s : State) : Result := s.aluWrite x (.of (s.x x ^^^ s.opB b) false)

/-- `LOAD sX, sY` (R401). -/
def execLoadReg (x y : Reg) (s : State) : Result := load x (.reg y) s
/-- `LOAD sX, kk` (R401). -/
def execLoadImm (x : Reg) (kk : Byte) (s : State) : Result := load x (.imm kk) s
/-- `AND sX, sY` (R402). -/
def execAndReg (x y : Reg) (s : State) : Result := logicalAnd x (.reg y) s
/-- `AND sX, kk` (R402). -/
def execAndImm (x : Reg) (kk : Byte) (s : State) : Result := logicalAnd x (.imm kk) s
/-- `OR sX, sY` (R403). -/
def execOrReg (x y : Reg) (s : State) : Result := logicalOr x (.reg y) s
/-- `OR sX, kk` (R403). -/
def execOrImm (x : Reg) (kk : Byte) (s : State) : Result := logicalOr x (.imm kk) s
/-- `XOR sX, sY` (R404). -/
def execXorReg (x y : Reg) (s : State) : Result := logicalXor x (.reg y) s
/-- `XOR sX, kk` (R404). -/
def execXorImm (x : Reg) (kk : Byte) (s : State) : Result := logicalXor x (.imm kk) s

end Sys2Proof.Machine
end

