-- ==== Sys2Proof/Machine/Arithmetic.lean ====
section
/-!
DEFINITION. Arithmetic instructions (spec 41_arithmetic.md R451 to R455). There is no multiply (R450).
-/
namespace Sys2Proof.Machine

/-- `ADD` (R451). -/
def add (x : Reg) (b : OpB) (s : State) : Result := s.aluWrite x (addBytes (s.x x) (s.opB b) false)
/-- `ADDCY` (R452). -/
def addcy (x : Reg) (b : OpB) (s : State) : Result := s.aluWrite x (addBytes (s.x x) (s.opB b) s.c)
/-- `SUB` (R453). -/
def sub (x : Reg) (b : OpB) (s : State) : Result := s.aluWrite x (subBytes (s.x x) (s.opB b) false)
/-- `SUBCY` (R454). -/
def subcy (x : Reg) (b : OpB) (s : State) : Result := s.aluWrite x (subBytes (s.x x) (s.opB b) s.c)

/-- `ADD sX, sY` (R451). -/
def execAddReg (x y : Reg) (s : State) : Result := add x (.reg y) s
/-- `ADD sX, kk` (R451). -/
def execAddImm (x : Reg) (kk : Byte) (s : State) : Result := add x (.imm kk) s
/-- `ADDCY sX, sY` (R452). -/
def execAddcyReg (x y : Reg) (s : State) : Result := addcy x (.reg y) s
/-- `ADDCY sX, kk` (R452). -/
def execAddcyImm (x : Reg) (kk : Byte) (s : State) : Result := addcy x (.imm kk) s
/-- `SUB sX, sY` (R453). -/
def execSubReg (x y : Reg) (s : State) : Result := sub x (.reg y) s
/-- `SUB sX, kk` (R453). -/
def execSubImm (x : Reg) (kk : Byte) (s : State) : Result := sub x (.imm kk) s
/-- `SUBCY sX, sY` (R454). -/
def execSubcyReg (x y : Reg) (s : State) : Result := subcy x (.reg y) s
/-- `SUBCY sX, kk` (R454). -/
def execSubcyImm (x : Reg) (kk : Byte) (s : State) : Result := subcy x (.imm kk) s

end Sys2Proof.Machine
end

