-- ==== Sys2Proof/Machine/BankOps.lean ====
section
/-!
DEFINITION. Register-bank instructions (spec 45_bank.md R650 to R655).
-/
namespace Sys2Proof.Machine

/-- `REGBANK b`: a selection, `BANK <- b` (R650). -/
def selectBank (k : Bank) (s : State) : Result := .next (s.setBank k).advance
/-- `STAR` (R655): operand B into register `sX` of the inactive bank. -/
def star (x : Reg) (b : OpB) (s : State) : Result := .next (s.setInactive x (s.opB b)).advance

/-- `REGBANK A` (R651). -/
def execRegbankA (s : State) : Result := selectBank .a s
/-- `REGBANK B` (R652). -/
def execRegbankB (s : State) : Result := selectBank .b s
/-- `STAR sX, sY` (R655). -/
def execStarReg (x y : Reg) (s : State) : Result := star x (.reg y) s
/-- `STAR sX, kk` (R655). -/
def execStarImm (x : Reg) (kk : Byte) (s : State) : Result := star x (.imm kk) s

end Sys2Proof.Machine
end

