-- ==== Sys2Proof/Machine/Control.lean ====
section
/-!
DEFINITION. Jump, call and return (spec 46_control.md R700 to R740). The state a meaning takes has `pc` at the instruction
itself, its fetch address `a`; a false condition leaves `pc = a + 1` and nothing else changed (R700).
-/
namespace Sys2Proof.Machine

/-- A call to `t` (R710): push the call frame and jump; on a full stack the core resets (60_exceptions.md R804). -/
def State.callTo (s : State) (t : Addr) : State :=
  match s.push s.callFrame with
  | none => s.stackFault .overflow s.pc
  | some u => u.setPc t

/-- A return (R730): pop and go to the frame's address plus one, its snapshot discarded; on an empty stack the core
resets (60_exceptions.md R804). -/
def State.returnToCaller (s : State) : State :=
  match s.pop with
  | none => s.stackFault .underflow s.pc
  | some (f, u) => u.setPc (f.addr + 1#12)

/-- `JUMP cc, aaa` (R702 to R705). -/
def jumpIf (k : Cond) (t : Addr) (s : State) : Result := .next (if k.holds s then s.setPc t else s.advance)
/-- `CALL cc, aaa` (R711 to R714). -/
def callIf (k : Cond) (t : Addr) (s : State) : Result := .next (if k.holds s then s.callTo t else s.advance)
/-- `RETURN cc` (R731 to R734). -/
def returnIf (k : Cond) (s : State) : Result := .next (if k.holds s then s.returnToCaller else s.advance)

/-- `JUMP aaa` (R701). -/
def execJump (t : Addr) (s : State) : Result := .next (s.setPc t)
/-- `JUMP Z, aaa` (R702). -/
def execJumpZ (t : Addr) (s : State) : Result := jumpIf .z t s
/-- `JUMP NZ, aaa` (R703). -/
def execJumpNZ (t : Addr) (s : State) : Result := jumpIf .nz t s
/-- `JUMP C, aaa` (R704). -/
def execJumpC (t : Addr) (s : State) : Result := jumpIf .c t s
/-- `JUMP NC, aaa` (R705). -/
def execJumpNC (t : Addr) (s : State) : Result := jumpIf .nc t s
/-- `CALL aaa` (R710). -/
def execCall (t : Addr) (s : State) : Result := .next (s.callTo t)
/-- `CALL Z, aaa` (R711). -/
def execCallZ (t : Addr) (s : State) : Result := callIf .z t s
/-- `CALL NZ, aaa` (R712). -/
def execCallNZ (t : Addr) (s : State) : Result := callIf .nz t s
/-- `CALL C, aaa` (R713). -/
def execCallC (t : Addr) (s : State) : Result := callIf .c t s
/-- `CALL NC, aaa` (R714). -/
def execCallNC (t : Addr) (s : State) : Result := callIf .nc t s
/-- `JUMP@ (sX, sY)` (R721). -/
def execJumpAt (x y : Reg) (s : State) : Result := .next (s.setPc (s.indirectTarget x y))
/-- `CALL@ (sX, sY)` (R722): the target is computed before the push. -/
def execCallAt (x y : Reg) (s : State) : Result := .next (s.callTo (s.indirectTarget x y))
/-- `RETURN` (R730). -/
def execRet (s : State) : Result := .next s.returnToCaller
/-- `RETURN Z` (R731). -/
def execRetZ (s : State) : Result := returnIf .z s
/-- `RETURN NZ` (R732). -/
def execRetNZ (s : State) : Result := returnIf .nz s
/-- `RETURN C` (R733). -/
def execRetC (s : State) : Result := returnIf .c s
/-- `RETURN NC` (R734). -/
def execRetNC (s : State) : Result := returnIf .nc s

/-- `LOAD&RETURN sX, kk` (R740): pop, load, return; on an empty stack the load is abandoned. -/
def execLoadReturn (x : Reg) (kk : Byte) (s : State) : Result :=
  match s.pop with
  | none => .next (s.stackFault .underflow s.pc)
  | some (f, u) => .next ((u.setX x kk).setPc (f.addr + 1#12))

end Sys2Proof.Machine
end

