-- ==== Sys2Proof/Machine/InterruptCtl.lean ====
section
/-!
DEFINITION. Interrupt-control instructions (spec 47_interrupt_ctl.md R780 to R785).
-/
namespace Sys2Proof.Machine

/-- `DISABLE INTERRUPT` (R780). -/
def execDisableInterrupt (s : State) : Result := .next (s.setIe false).advance
/-- `ENABLE INTERRUPT` (R781). -/
def execEnableInterrupt (s : State) : Result := .next (s.setIe true).advance
/-- `RETURNI DISABLE` (R784). -/
def execReturniDisable (s : State) : Result := s.returnFromInterrupt false
/-- `RETURNI ENABLE` (R785). -/
def execReturniEnable (s : State) : Result := s.returnFromInterrupt true

end Sys2Proof.Machine
end

