-- ==== Sys2Proof/Machine/MemoryIo.lean ====
section
/-!
DEFINITION. Scratch-pad and port instructions (spec 44_memory_io.md R600 to R611). None writes a flag (R600).
-/
namespace Sys2Proof.Machine

/-- `FETCH` (R601). -/
def fetchScratch (x : Reg) (b : OpB) (s : State) : Result := .next (s.setX x (s.memRead (s.opB b))).advance
/-- `STORE` (R602). -/
def storeScratch (x : Reg) (b : OpB) (s : State) : Result := .next (s.memWrite (s.opB b) (s.x x)).advance
/-- `INPUT` (R605). -/
def inputPort (x : Reg) (b : OpB) (s : State) : Result :=
  .next (((s.portRead (s.opB b)).2.setX x (s.portRead (s.opB b)).1)).advance
/-- `OUTPUT` (R610). -/
def outputPort (x : Reg) (b : OpB) (s : State) : Result := .next (s.portWrite (s.opB b) (s.x x)).advance

/-- `FETCH sX, (sY)` (R601). -/
def execFetchReg (x y : Reg) (s : State) : Result := fetchScratch x (.reg y) s
/-- `FETCH sX, ss` (R601). -/
def execFetchImm (x : Reg) (ss : Byte) (s : State) : Result := fetchScratch x (.imm ss) s
/-- `STORE sX, (sY)` (R602). -/
def execStoreReg (x y : Reg) (s : State) : Result := storeScratch x (.reg y) s
/-- `STORE sX, ss` (R602). -/
def execStoreImm (x : Reg) (ss : Byte) (s : State) : Result := storeScratch x (.imm ss) s
/-- `INPUT sX, (sY)` (R605). -/
def execInputReg (x y : Reg) (s : State) : Result := inputPort x (.reg y) s
/-- `INPUT sX, pp` (R605). -/
def execInputImm (x : Reg) (pp : Byte) (s : State) : Result := inputPort x (.imm pp) s
/-- `OUTPUT sX, (sY)` (R610). -/
def execOutputReg (x y : Reg) (s : State) : Result := outputPort x (.reg y) s
/-- `OUTPUT sX, pp` (R610). -/
def execOutputImm (x : Reg) (pp : Byte) (s : State) : Result := outputPort x (.imm pp) s
/-- `OUTPUTK kk, p` (R611). -/
def execOutputk (kx : Byte) (p : BitVec 4) (s : State) : Result := .next (s.portWrite (outputkPort p) kx).advance

end Sys2Proof.Machine
end

