-- ==== Sys2Proof/Machine/Shift.lean ====
section
/-!
DEFINITION. Shifts, rotates and `HWBUILD` (spec 43_shift_rotate.md R549 to R560). The extend bit is old bit 0 to the left
and old bit 7 to the right (R549).
-/
namespace Sys2Proof.Machine

/-- A left shift of `sX` with `bitIn` moved in (R549). -/
def shiftLeftReg (x : Reg) (bitIn : Bool) (s : State) : Result := s.aluWrite x (shiftLeft (s.x x) bitIn)
/-- A right shift of `sX` with `bitIn` moved in (R549). -/
def shiftRightReg (x : Reg) (bitIn : Bool) (s : State) : Result := s.aluWrite x (shiftRight (s.x x) bitIn)

/-- `SL0 sX` (R550). -/
def execSl0 (x : Reg) (s : State) : Result := shiftLeftReg x false s
/-- `SL1 sX` (R551). -/
def execSl1 (x : Reg) (s : State) : Result := shiftLeftReg x true s
/-- `SLX sX` (R552). -/
def execSlx (x : Reg) (s : State) : Result := shiftLeftReg x ((s.x x).getLsbD 0) s
/-- `SLA sX` (R553). -/
def execSla (x : Reg) (s : State) : Result := shiftLeftReg x s.c s
/-- `RL sX` (R554). -/
def execRl (x : Reg) (s : State) : Result := shiftLeftReg x ((s.x x).getLsbD 7) s
/-- `SR0 sX` (R555). -/
def execSr0 (x : Reg) (s : State) : Result := shiftRightReg x false s
/-- `SR1 sX` (R556). -/
def execSr1 (x : Reg) (s : State) : Result := shiftRightReg x true s
/-- `SRX sX` (R557). -/
def execSrx (x : Reg) (s : State) : Result := shiftRightReg x ((s.x x).getLsbD 7) s
/-- `SRA sX` (R558). -/
def execSra (x : Reg) (s : State) : Result := shiftRightReg x s.c s
/-- `RR sX` (R559). -/
def execRr (x : Reg) (s : State) : Result := shiftRightReg x ((s.x x).getLsbD 0) s
/-- `HWBUILD sX` (R560): the identifier, carry forced to 1. -/
def execHwbuild (x : Reg) (s : State) : Result := s.aluWrite x (.of s.cfg.hwbuildId true)

end Sys2Proof.Machine
end

