-- ==== Sys2Proof/Machine/TestCompare.lean ====
section
/-!
DEFINITION. Test and compare instructions (spec 42_test_compare.md R500 to R504): they write only the flags.
-/
namespace Sys2Proof.Machine

/-- Set the flags of an ALU result, drop the result (R500), and go on. -/
def State.aluFlags (s : State) (v : Alu) : Result := .next (s.setFlags v.z v.c).advance

/-- `TEST` (R501). -/
def test (x : Reg) (b : OpB) (s : State) : Result := s.aluFlags (testBytes (s.x x) (s.opB b) false)
/-- `TESTCY` (R502). -/
def testcy (x : Reg) (b : OpB) (s : State) : Result := s.aluFlags (testBytes (s.x x) (s.opB b) s.c)
/-- `COMPARE` (R503). -/
def compare (x : Reg) (b : OpB) (s : State) : Result := s.aluFlags (subBytes (s.x x) (s.opB b) false)
/-- `COMPARECY` (R504). -/
def comparecy (x : Reg) (b : OpB) (s : State) : Result := s.aluFlags (subBytes (s.x x) (s.opB b) s.c)

/-- `TEST sX, sY` (R501). -/
def execTestReg (x y : Reg) (s : State) : Result := test x (.reg y) s
/-- `TEST sX, kk` (R501). -/
def execTestImm (x : Reg) (kk : Byte) (s : State) : Result := test x (.imm kk) s
/-- `TESTCY sX, sY` (R502). -/
def execTestcyReg (x y : Reg) (s : State) : Result := testcy x (.reg y) s
/-- `TESTCY sX, kk` (R502). -/
def execTestcyImm (x : Reg) (kk : Byte) (s : State) : Result := testcy x (.imm kk) s
/-- `COMPARE sX, sY` (R503). -/
def execCompareReg (x y : Reg) (s : State) : Result := compare x (.reg y) s
/-- `COMPARE sX, kk` (R503). -/
def execCompareImm (x : Reg) (kk : Byte) (s : State) : Result := compare x (.imm kk) s
/-- `COMPARECY sX, sY` (R504). -/
def execComparecyReg (x y : Reg) (s : State) : Result := comparecy x (.reg y) s
/-- `COMPARECY sX, kk` (R504). -/
def execComparecyImm (x : Reg) (kk : Byte) (s : State) : Result := comparecy x (.imm kk) s

end Sys2Proof.Machine
end

