-- ==== Sys2Proof/Machine/Dispatch.lean ====
section
/-!
DEFINITION. Every instruction to its meaning. `exec i s` is `execute(i, a)` of spec 30_encoding.md R302 on a state whose
`pc` is still the fetch address `a`: each meaning makes the fetch's advance itself.
-/
namespace Sys2Proof.Machine

def exec (i : Instr) (s : State) : Host.Outcome State Fault Refusal :=
  match i with
  | .loadReg x y => Sys2Proof.Machine.execLoadReg x y s
  | .loadImm x kk => Sys2Proof.Machine.execLoadImm x kk s
  | .andReg x y => Sys2Proof.Machine.execAndReg x y s
  | .andImm x kk => Sys2Proof.Machine.execAndImm x kk s
  | .orReg x y => Sys2Proof.Machine.execOrReg x y s
  | .orImm x kk => Sys2Proof.Machine.execOrImm x kk s
  | .xorReg x y => Sys2Proof.Machine.execXorReg x y s
  | .xorImm x kk => Sys2Proof.Machine.execXorImm x kk s
  | .inputReg x y => Sys2Proof.Machine.execInputReg x y s
  | .inputImm x pp => Sys2Proof.Machine.execInputImm x pp s
  | .fetchReg x y => Sys2Proof.Machine.execFetchReg x y s
  | .fetchImm x ss => Sys2Proof.Machine.execFetchImm x ss s
  | .testReg x y => Sys2Proof.Machine.execTestReg x y s
  | .testImm x kk => Sys2Proof.Machine.execTestImm x kk s
  | .testcyReg x y => Sys2Proof.Machine.execTestcyReg x y s
  | .testcyImm x kk => Sys2Proof.Machine.execTestcyImm x kk s
  | .addReg x y => Sys2Proof.Machine.execAddReg x y s
  | .addImm x kk => Sys2Proof.Machine.execAddImm x kk s
  | .addcyReg x y => Sys2Proof.Machine.execAddcyReg x y s
  | .addcyImm x kk => Sys2Proof.Machine.execAddcyImm x kk s
  | .sla x => Sys2Proof.Machine.execSla x s
  | .rl x => Sys2Proof.Machine.execRl x s
  | .slx x => Sys2Proof.Machine.execSlx x s
  | .sl0 x => Sys2Proof.Machine.execSl0 x s
  | .sl1 x => Sys2Proof.Machine.execSl1 x s
  | .sra x => Sys2Proof.Machine.execSra x s
  | .srx x => Sys2Proof.Machine.execSrx x s
  | .rr x => Sys2Proof.Machine.execRr x s
  | .sr0 x => Sys2Proof.Machine.execSr0 x s
  | .sr1 x => Sys2Proof.Machine.execSr1 x s
  | .hwbuild x => Sys2Proof.Machine.execHwbuild x s
  | .starReg x y => Sys2Proof.Machine.execStarReg x y s
  | .starImm x kk => Sys2Proof.Machine.execStarImm x kk s
  | .subReg x y => Sys2Proof.Machine.execSubReg x y s
  | .subImm x kk => Sys2Proof.Machine.execSubImm x kk s
  | .subcyReg x y => Sys2Proof.Machine.execSubcyReg x y s
  | .subcyImm x kk => Sys2Proof.Machine.execSubcyImm x kk s
  | .compareReg x y => Sys2Proof.Machine.execCompareReg x y s
  | .compareImm x kk => Sys2Proof.Machine.execCompareImm x kk s
  | .comparecyReg x y => Sys2Proof.Machine.execComparecyReg x y s
  | .comparecyImm x kk => Sys2Proof.Machine.execComparecyImm x kk s
  | .call aaa => Sys2Proof.Machine.execCall aaa s
  | .loadReturn x kk => Sys2Proof.Machine.execLoadReturn x kk s
  | .jump aaa => Sys2Proof.Machine.execJump aaa s
  | .callAt x y => Sys2Proof.Machine.execCallAt x y s
  | .ret => Sys2Proof.Machine.execRet s
  | .jumpAt x y => Sys2Proof.Machine.execJumpAt x y s
  | .disableInterrupt => Sys2Proof.Machine.execDisableInterrupt s
  | .enableInterrupt => Sys2Proof.Machine.execEnableInterrupt s
  | .returniDisable => Sys2Proof.Machine.execReturniDisable s
  | .returniEnable => Sys2Proof.Machine.execReturniEnable s
  | .outputk kx p => Sys2Proof.Machine.execOutputk kx p s
  | .outputReg x y => Sys2Proof.Machine.execOutputReg x y s
  | .outputImm x pp => Sys2Proof.Machine.execOutputImm x pp s
  | .storeReg x y => Sys2Proof.Machine.execStoreReg x y s
  | .storeImm x ss => Sys2Proof.Machine.execStoreImm x ss s
  | .callZ aaa => Sys2Proof.Machine.execCallZ aaa s
  | .retZ => Sys2Proof.Machine.execRetZ s
  | .jumpZ aaa => Sys2Proof.Machine.execJumpZ aaa s
  | .callNZ aaa => Sys2Proof.Machine.execCallNZ aaa s
  | .retNZ => Sys2Proof.Machine.execRetNZ s
  | .jumpNZ aaa => Sys2Proof.Machine.execJumpNZ aaa s
  | .regbankA => Sys2Proof.Machine.execRegbankA s
  | .regbankB => Sys2Proof.Machine.execRegbankB s
  | .callC aaa => Sys2Proof.Machine.execCallC aaa s
  | .retC => Sys2Proof.Machine.execRetC s
  | .jumpC aaa => Sys2Proof.Machine.execJumpC aaa s
  | .callNC aaa => Sys2Proof.Machine.execCallNC aaa s
  | .retNC => Sys2Proof.Machine.execRetNC s
  | .jumpNC aaa => Sys2Proof.Machine.execJumpNC aaa s

end Sys2Proof.Machine
end

