-- ==== Sys2Proof/Machine/Step.lean ====
section
/-!
DEFINITION. One step, `runCycle()` (spec 60_exceptions.md R810, 30_encoding.md R302), and placing one instruction word for
the host's questions.
-/
namespace Sys2Proof.Machine

/-- `runCycle()` (R810): the interrupt entry if one is pending and enabled, otherwise fetch, decode, execute. -/
def step (s : State) : Host.Outcome State Fault Refusal :=
  if s.interruptTaken then .next s.interruptEntry
  else
    match decode s.cfg s.fetch with
    | .instr i => exec i s
    | .unassigned w => s.runUnassigned w

/-- `s` with the word `w` in program memory at `pc`. What else the fetch needs (log entry 9): a core in which the word is
unassigned but a row of the opcode table has it gets its gates opened, and a request the next cycle would enter for is
taken away. -/
def State.withFetchWord (s : State) (_nbits w : Nat) : State :=
  { s with
    cfg :=
      match decode s.cfg (BitVec.ofNat 18 w), decode s.cfg.openGates (BitVec.ofNat 18 w) with
      | .unassigned _, .instr _ => s.cfg.openGates
      | _, _ => s.cfg
    pm := Sparse.insert s.pm s.pc.toNat (BitVec.ofNat 18 w)
    irq := s.irq && !s.ie }

end Sys2Proof.Machine
end

