-- ==== Sys2Proof/Machine/Router.lean ====
section
/-!
DEFINITION. The port router: the address-specification grammar and `rebuild()` (spec 20_memory.md R240 to R246).
-/
namespace Sys2Proof.Machine

/-- A token of a device's address specification (R242): an address range, one direction or both, and the index offset. -/
structure Token where
  dir : Option Dir
  low : Nat
  high : Nat
  offset : Nat
  deriving DecidableEq, Repr

/-! The grammar of R242. Numbers are decimal, spaces around a token are ignored. -/

/-- The value of a decimal digit. -/
def digitVal (ch : Char) : Option Nat :=
  if 48 ≤ ch.toNat ∧ ch.toNat ≤ 57 then some (ch.toNat - 48) else none

/-- Read on while there are digits: the number and what follows it. -/
def readDigits (acc : Nat) : List Char → Nat × List Char
  | [] => (acc, [])
  | ch :: rest =>
    match digitVal ch with
    | some d => readDigits (acc * 10 + d) rest
    | none => (acc, ch :: rest)

/-- A number of one or more digits, and what follows it. -/
def readNumber : List Char → Option (Nat × List Char)
  | [] => none
  | ch :: rest =>
    match digitVal ch with
    | some d => some (readDigits d rest)
    | none => none

/-- Drop the spaces a list of characters begins with. -/
def dropSpaces : List Char → List Char
  | ' ' :: rest => dropSpaces rest
  | l => l

/-- A token without the spaces around it. -/
def trimSpaces (l : List Char) : List Char := (dropSpaces (dropSpaces l).reverse).reverse

/-- The pieces between commas. -/
def splitCommas : List Char → List (List Char)
  | [] => [[]]
  | ch :: rest =>
    if ch = ',' then [] :: splitCommas rest
    else
      match splitCommas rest with
      | [] => [[ch]]
      | t :: ts => (ch :: t) :: ts

/-- A token whose range is legal: `low` to `high` not falling, `high` at most 4095 (R244). -/
def makeToken (dir : Option Dir) (low high offset : Nat) : Option Token :=
  if low ≤ high ∧ high ≤ 4095 then some { dir := dir, low := low, high := high, offset := offset } else none

/-- `(":" offset)?` and the end of the token. -/
def parseOffset (dir : Option Dir) (low high : Nat) : List Char → Option Token
  | [] => makeToken dir low high 0
  | ':' :: rest =>
    match readNumber rest with
    | some (offset, []) => makeToken dir low high offset
    | _ => none
  | _ => none

/-- `low ("-" high)? (":" offset)?`; `high` absent means `high = low` (R242). -/
def parseRange (dir : Option Dir) (l : List Char) : Option Token :=
  match readNumber l with
  | none => none
  | some (low, '-' :: rest) =>
    match readNumber rest with
    | some (high, rest') => parseOffset dir low high rest'
    | none => none
  | some (low, rest) => parseOffset dir low low rest

/-- `dir? low ("-" high)? (":" offset)?`. -/
def parseToken : List Char → Option Token
  | 'r' :: rest => parseRange (some .read) rest
  | 'w' :: rest => parseRange (some .write) rest
  | l => parseRange none l

/-- The tokens of the pieces, in order, if every piece is a token. -/
def parsePieces : List (List Char) → Option (List Token)
  | [] => some []
  | p :: ps =>
    match parseToken (trimSpaces p), parsePieces ps with
    | some t, some ts => some (t :: ts)
    | _, _ => none

/-- `tokens(spec)` (R240, R242); `none` when the spec is refused (R244). -/
def parseSpec (spec : List Char) : Option (List Token) :=
  match spec with
  | [] => some []
  | _ => parsePieces (splitCommas spec)

/-! `rebuild()` (R240). -/

/-- `d in dev.capability` (R241). -/
def Capability.allows : Capability → Dir → Bool
  | .both, _ => true
  | .read, .read => true
  | .write, .write => true
  | .read, .write => false
  | .write, .read => false

/-- The device and the token both allow direction `d` (R240, R242). -/
def Token.allows (tok : Token) (dev : Device) (d : Dir) : Bool :=
  dev.capability.allows d && (tok.dir.isNone || tok.dir == some d)

/-- The addresses `low .. high` of a token. -/
def Token.addresses (tok : Token) : List Nat := List.range' tok.low (tok.high + 1 - tok.low)

/-- `table(d)[a] <- (dev, a - tok.low + tok.offset)` for every address of a token that allows `d`. -/
def fillToken (d : Dir) (dev : Device) (table : List (Nat × Route)) (tok : Token) : List (Nat × Route) :=
  if tok.allows dev d then
    tok.addresses.foldl
      (fun t a => Sparse.insert t a { device := dev.id, index := a - tok.low + tok.offset }) table
  else table

/-- The entries of one device, its tokens in order. An attached device's spec is never a refused one (R244). -/
def fillDevice (d : Dir) (table : List (Nat × Route)) (dev : Device) : List (Nat × Route) :=
  ((parseSpec dev.spec).getD []).foldl (fillToken d dev) table

/-- The table of direction `d`, made from nothing, devices in registration order (R240). -/
def buildTable (d : Dir) (devices : List Device) : List (Nat × Route) := devices.foldl (fillDevice d) []

/-- `rebuild()` (R240): both tables discarded and made again. -/
def State.rebuild (s : State) : State :=
  { s with rt := buildTable .read s.devices, wt := buildTable .write s.devices }

end Sys2Proof.Machine
end

