-- ==== Sys2Proof/Machine/HostActions.lean ====
section
/-!
DEFINITION. What the host may do between cycles (spec 60_exceptions.md R820 to R826, 20_memory.md R241 to R245), and the
predicates it evaluates (R825, R830, R831). `runCycle` is `step` (log entry 11).
-/
namespace Sys2Proof.Machine

/-- Why the core refuses a host action. -/
inductive HostRefusal where
  /-- A value wider than its field, or a field the configuration does not have (R823, log entry 17). -/
  | illFormedValue
  /-- A snapshot that does not fit the configuration or a field (R823). -/
  | illFormedSnapshot
  /-- A program with a word wider than 18 bits or an address wider than 12 (R823). -/
  | illFormedProgram
  /-- An address specification the grammar refuses (R244). -/
  | malformedSpec
  /-- A device of that name is attached already (log entry 16). -/
  | duplicateDevice
  /-- No device of that name is attached (log entry 16). -/
  | unknownDevice
  deriving DecidableEq, Repr

/-- What a host action answers. -/
inductive HostAnswer where
  | done (s : State)
  | refused (r : HostRefusal)
  deriving DecidableEq, Repr

/-! Values as the host gives them, numbers that may be too wide for their field (R823). -/

/-- A number as a field of `w` bits. -/
def fitBits (w v : Nat) : Option (BitVec w) := if v < 2 ^ w then some (BitVec.ofNat w v) else none

/-- A number as a flag. -/
def fitBool (v : Nat) : Option Bool := if v = 0 then some false else if v = 1 then some true else none

/-- A number as a bank selector. -/
def fitBank (v : Nat) : Option Bank := if v = 0 then some .a else if v = 1 then some .b else none

/-- A bank selector as a number. -/
def Bank.toNat : Bank → Nat
  | .a => 0
  | .b => 1

/-- A frame of the extended variant's snapshot, as numbers. -/
structure RawSnap where
  z : Nat
  c : Nat
  bank : Nat
  isInt : Nat
  deriving DecidableEq, Repr

/-- A frame as numbers (R823). -/
structure RawFrame where
  addr : Nat
  snap : Option RawSnap
  deriving DecidableEq, Repr

/-- A frame's snapshot that fits. -/
def RawSnap.fit (r : RawSnap) : Option Snapshot :=
  match fitBool r.z, fitBool r.c, fitBank r.bank, fitBool r.isInt with
  | some z, some c, some k, some t => some { z := z, c := c, bank := k, isInt := t }
  | _, _, _, _ => none

/-- A frame that fits: it has a snapshot exactly with `HAS_BANK` (10_state.md R120). -/
def RawFrame.fit (k : Cfg) (r : RawFrame) : Option Frame :=
  match fitBits 12 r.addr, r.snap with
  | some a, none => if k.hasBank then none else some { addr := a, snap := none }
  | some a, some p =>
    if k.hasBank then
      match p.fit with
      | some q => some { addr := a, snap := some q }
      | none => none
    else none
  | none, _ => none

/-- Frames that all fit. -/
def fitFrames (k : Cfg) : List RawFrame → Option (List Frame)
  | [] => some []
  | r :: rs =>
    match r.fit k, fitFrames k rs with
    | some f, some fs => some (f :: fs)
    | _, _ => none

/-- A stack that fits: frames that fit, at most `STACK_DEPTH` of them (R823). -/
def fitStack (k : Cfg) (l : List RawFrame) : Option (List Frame) :=
  if l.length ≤ k.stackDepth then fitFrames k l else none

/-- Sixteen bytes as a register bank. -/
def fitRegs (l : List Nat) : Option RegFile :=
  if l.length = 16 ∧ ∀ v ∈ l, v < 256 then some (Vector.ofFn fun i => BitVec.ofNat 8 (l.getD i 0)) else none

/-- The memory whose locations from `k` on hold the bytes of the list. -/
def Memory.ofBytes (k : Nat) : List Nat → List Host.Cell
  | [] => []
  | v :: vs =>
    if BitVec.ofNat 8 v = 0#8 then Memory.ofBytes (k + 1) vs
    else (k, BitVec.ofNat 8 v) :: Memory.ofBytes (k + 1) vs

/-- `SCRATCH_SIZE` bytes as a scratch pad. -/
def fitScratch (n : Nat) (l : List Nat) : Option (List Host.Cell) :=
  if l.length = n ∧ ∀ v ∈ l, v < 256 then some (Memory.ofBytes 0 l) else none

/-! `setState` (R823). -/

/-- A field and the value the host writes to it. -/
inductive FieldValue where
  | pc (v : Nat)
  | regA (i v : Nat)
  | regB (i v : Nat)
  | bank (v : Nat)
  | scratch (i v : Nat)
  | z (v : Nat)
  | c (v : Nat)
  | ie (v : Nat)
  | irq (v : Nat)
  | stk (l : List RawFrame)
  /-- Register `i` of the source's active file (10_state.md R105). -/
  | register (i v : Nat)
  /-- Register `i` of the source's shadow file (R105). -/
  | shadow (i v : Nat)
  /-- The source's active-bank indicator, its two files kept as they are (R105). -/
  | activeFlag (v : Nat)
  /-- One entry of program memory, a word or unassigned (20_memory.md R202, 10_state.md R131, log entry 7). -/
  | program (a : Nat) (w : Option Nat)
  deriving DecidableEq, Repr

/-- The state with the field written, if the value fits (R823). -/
def State.setField (s : State) : FieldValue → Option State
  | .pc v => (fitBits 12 v).map s.setPc
  | .regA i v =>
    match fitBits 4 i, fitBits 8 v with
    | some r, some b => some { s with regsA := RegFile.put s.regsA r b }
    | _, _ => none
  | .regB i v =>
    match fitBits 4 i, fitBits 8 v with
    | some r, some b => if s.cfg.hasBank then some { s with regsB := RegFile.put s.regsB r b } else none
    | _, _ => none
  | .bank v =>
    match fitBank v with
    | some k => if s.cfg.hasBank || k = .a then some (s.setBank k) else none
    | none => none
  | .scratch i v =>
    match fitBits 8 v with
    | some b => if i < s.cfg.scratchSize.bytes then some { s with sp := Memory.write s.sp i b } else none
    | none => none
  | .z v => (fitBool v).map fun b => s.setFlags b s.c
  | .c v => (fitBool v).map fun b => s.setFlags s.z b
  | .ie v => (fitBool v).map s.setIe
  | .irq v => (fitBool v).map s.setIrq
  | .stk l => (fitStack s.cfg l).map s.setStk
  | .register i v =>
    match fitBits 4 i, fitBits 8 v with
    | some r, some b => some (s.setX r b)
    | _, _ => none
  | .shadow i v =>
    match fitBits 4 i, fitBits 8 v with
    | some r, some b => if s.cfg.hasBank then some (s.setInactive r b) else none
    | _, _ => none
  | .activeFlag v =>
    match fitBank v with
    | some k => if s.cfg.hasBank || k = .a then some (s.setActiveFlag k) else none
    | none => none
  | .program a none => (fitBits 12 a).map fun t => s.assign t none
  | .program a (some w) =>
    match fitBits 12 a, fitBits 18 w with
    | some t, some v => some (s.assign t (some v))
    | _, _ => none

/-! Program load (R823, 10_state.md R131). -/

/-- Program memory holding the assembler's output, a list of address and word, if every one fits; the words it does not
list are unassigned (log entry 13). -/
def loadWords : List (Nat × Nat) → Option (List (Nat × InsnWord))
  | [] => some []
  | (a, w) :: rest =>
    match fitBits 12 a, fitBits 18 w, loadWords rest with
    | some t, some v, some m => some (Sparse.insert m t.toNat v)
    | _, _, _ => none

/-! Snapshots (R823), in the source's terms: the registers are the active bank, the shadow registers the other one
(10_state.md R105). -/

/-- The shadow registers and the active-bank flag (R823), of the extended variant. -/
structure ShadowPart where
  regs : List Nat
  active : Nat
  deriving DecidableEq, Repr

/-- A saved state: the full architectural state as numbers (R823), and program memory where the snapshot carries it
(20_memory.md R202, log entry 14). -/
structure SavedState where
  regs : List Nat
  shadow : Option ShadowPart
  scratch : List Nat
  stack : List RawFrame
  pc : Nat
  z : Nat
  c : Nat
  ie : Nat
  irq : Nat
  program : Option (List (Nat × Nat))
  deriving DecidableEq, Repr

/-- A register bank as numbers. -/
def RegFile.saved (f : RegFile) : List Nat := f.toList.map BitVec.toNat

/-- A frame as numbers. -/
def Frame.saved (f : Frame) : RawFrame :=
  { addr := f.addr.toNat
    snap := f.snap.map fun p =>
      { z := p.z.toNat, c := p.c.toNat, bank := p.bank.toNat, isInt := p.isInt.toNat } }

/-- Snapshot save (R823): the architectural state. -/
def State.save (s : State) : SavedState :=
  { regs := RegFile.saved (if s.activeBank = .a then s.regsA else s.regsB)
    shadow :=
      if s.cfg.hasBank then
        some { regs := RegFile.saved (if s.activeBank = .a then s.regsB else s.regsA), active := s.bank.toNat }
      else none
    scratch := (List.range s.cfg.scratchSize.bytes).map fun k => (Memory.read s.sp k).toNat
    stack := s.stk.map Frame.saved
    pc := s.pc.toNat, z := s.z.toNat, c := s.c.toNat, ie := s.ie.toNat, irq := s.irq.toNat, program := none }

/-- Snapshot save with program memory (20_memory.md R202, log entry 14). -/
def State.saveWithProgram (s : State) : SavedState :=
  { s.save with program := some (s.pm.map fun e => (e.1, e.2.toNat)) }

/-- The banks and the selector a snapshot gives, if they fit the configuration. -/
def State.fitBanks (s : State) (v : SavedState) : Option (RegFile × RegFile × Bank) :=
  match fitRegs v.regs, v.shadow with
  | some r, none => if s.cfg.hasBank then none else some (r, s.regsB, .a)
  | some r, some sh =>
    if s.cfg.hasBank then
      match fitRegs sh.regs, fitBank sh.active with
      | some q, some .a => some (r, q, .a)
      | some q, some .b => some (q, r, .b)
      | _, _ => none
    else none
  | none, _ => none

/-- Program memory as a snapshot leaves it: what it carries, or what it was (20_memory.md R202, log entry 14). -/
def State.fitProgram (s : State) (v : SavedState) : Option (List (Nat × InsnWord)) :=
  match v.program with
  | some ws => loadWords ws
  | none => some s.pm

/-- Snapshot load (R823): every architectural field from the snapshot, and program memory where it carries it (R202), nothing
else; `none` if it is ill-formed. -/
def State.load (s : State) (v : SavedState) : Option State :=
  match s.fitBanks v, fitScratch s.cfg.scratchSize.bytes v.scratch, fitStack s.cfg v.stack, s.fitProgram v with
  | some (ra, rb, k), some m, some st, some pm =>
    match fitBits 12 v.pc, fitBool v.z, fitBool v.c, fitBool v.ie, fitBool v.irq with
    | some pc, some z, some c, some ie, some irq =>
      some { s with
        pm := pm, pc := pc, regsA := ra, regsB := rb, bank := k, sp := m
        z := z, c := c, ie := ie, irq := irq, stk := st }
    | _, _, _, _, _ => none
  | _, _, _, _ => none

/-! The host's actions. -/

/-- An action of the host between cycles (R820 to R824); `runCycle` is `step`. -/
inductive HostAction where
  | trigInt
  | reset
  | setState (f : FieldValue)
  | loadSnapshot (v : SavedState)
  | loadProgram (words : List (Nat × Nat))
  | registerDevice (d : Device)
  | detachDevice (id : Nat)
  | editSpec (id : Nat) (spec : List Char)
  deriving DecidableEq, Repr

/-- An answer that may be a refusal. -/
def HostAnswer.of (r : HostRefusal) : Option State → HostAnswer
  | some s => .done s
  | none => .refused r

/-- A device named `id` is attached. -/
def State.attached (s : State) (id : Nat) : Bool := s.devices.any fun d => d.id == id

/-- The state with these devices attached and the router rebuilt (20_memory.md R241). -/
def State.withDevices (s : State) (l : List Device) : State := ({ s with devices := l } : State).rebuild

/-- One host action (R820, R821, R823, R824). A refused action leaves the core as it was: a refused attach (20_memory.md R244),
and, DESIGN CHOICE log entry 18, a refused edit too, whose device stays attached with its old spec. -/
def State.hostAct (s : State) : HostAction → HostAnswer
  | .trigInt => .done (s.setIrq true)
  | .reset => .done s.resetCore
  | .setState f => .of .illFormedValue (s.setField f)
  | .loadSnapshot v => .of .illFormedSnapshot (s.load v)
  | .loadProgram ws => .of .illFormedProgram ((loadWords ws).map fun m => { s with pm := m })
  | .registerDevice d =>
    if s.attached d.id then .refused .duplicateDevice
    else if (parseSpec d.spec).isNone then .refused .malformedSpec
    else .done (s.withDevices (s.devices ++ [d]))
  | .detachDevice id =>
    if s.attached id then .done (s.withDevices (s.devices.filter fun d => d.id != id)) else .refused .unknownDevice
  | .editSpec id spec =>
    if !s.attached id then .refused .unknownDevice
    else if (parseSpec spec).isNone then .refused .malformedSpec
    else .done (s.withDevices (s.devices.map fun d => if d.id = id then { d with spec := spec } else d))

/-! Predicates the core exposes. -/

/-- `atBreakpoint(S) = pc ∈ S` (R825). -/
def State.atBreakpoint (s : State) (points : List Addr) : Bool := points.contains s.pc

/-- `selfJump` (R830): the word at `pc` is a direct unconditional jump to itself. Advisory only. -/
def State.selfJump (s : State) : Bool := decode s.cfg s.fetch == .instr (.jump s.pc)

/-- Halted (R831): a self-jump with interrupts disabled. The strict-mode fault states are halted by themselves. -/
def State.halted (s : State) : Bool := s.selfJump && !s.ie

end Sys2Proof.Machine
end

