-- ==== Sys2Proof/Safety.lean ====
section
/-!
DEFINITION. What statements are made of: the invariant of the machine, the parts of a state an instruction leaves alone,
and what a clean run is.
-/
namespace Sys2Proof.Machine

/-- The invariant: the configuration is legal (spec 00_scope.md R16), memories and tables are in canonical form and inside
their address spaces (20_memory.md R200), the stack is within its depth and its frames have the variant's shape (10_state.md
R120), `BANK` is 0 without `HAS_BANK` (R103), every attached device has a legal spec and a name of its own, and the router
tables are those of the attached devices (20_memory.md R240, R241). -/
structure State.Inv (s : State) : Prop where
  cfgLegal : s.cfg.wf = true
  pmCanonical : Sparse.rising s.pm
  pmBound : Sparse.below 4096 s.pm
  spCanonical : Memory.wf s.sp
  spBound : Sparse.below s.cfg.scratchSize.bytes s.sp
  stackBound : s.stk.length ≤ s.cfg.stackDepth
  frameShape : ∀ f ∈ s.stk, f.snap.isSome = s.cfg.hasBank
  baseBank : s.cfg.hasBank = false → s.bank = .a
  specsLegal : ∀ d ∈ s.devices, (parseSpec d.spec).isSome = true
  deviceNames : s.devices.Pairwise fun d e => d.id ≠ e.id
  readTable : s.rt = buildTable .read s.devices
  writeTable : s.wt = buildTable .write s.devices

/-! The parts of a state. -/

/-- What the core never writes: configuration, program memory, devices, router tables (10_state.md R101). -/
def ParamsKept (s t : State) : Prop :=
  t.cfg = s.cfg ∧ t.pm = s.pm ∧ t.devices = s.devices ∧ t.rt = s.rt ∧ t.wt = s.wt

/-- The bank selector and every register of both banks but register `r` of bank `k` are as before. -/
def RegsKeptBut (k : Bank) (r : Reg) (s t : State) : Prop :=
  t.bank = s.bank ∧ ∀ j q, ¬(j = k ∧ q = r) → t.reg j q = s.reg j q

/-- Every register of both banks is as before. -/
def RegFilesKept (s t : State) : Prop := ∀ j q, t.reg j q = s.reg j q

/-- The bank selector and every register of both banks are as before. -/
def RegsKept (s t : State) : Prop := t.bank = s.bank ∧ RegFilesKept s t

/-- Both flags are as before. -/
def FlagsKept (s t : State) : Prop := t.z = s.z ∧ t.c = s.c

/-- `IE` and `IRQ` are as before. -/
def IntKept (s t : State) : Prop := t.ie = s.ie ∧ t.irq = s.irq

/-- The call/return stack is as before. -/
def StackKept (s t : State) : Prop := t.stk = s.stk

/-- Every scratch-pad address reads as before. -/
def ScratchKept (s t : State) : Prop := ∀ a, t.memRead a = s.memRead a

/-- No port access and no other event: the log and the count of device reads are as before. -/
def PortsKept (s t : State) : Prop := t.log = s.log ∧ t.draws = s.draws

/-- `pc` is the address after, `(a + 1) mod 4096` (30_encoding.md R302). -/
def PcAdvanced (s t : State) : Prop := t.pc.toNat = (s.pc.toNat + 1) % 4096

/-- `t` is the power-on state in the core of `s`, as a stack fault of kind `k` logged at `a` leaves it (60_exceptions.md R804):
`pc` 0, every architectural field as it is in `State.reset` (10_state.md R150), parameters kept, one log entry more. -/
def ResetByStackFault (s t : State) (k : StackFaultKind) (a : Addr) : Prop :=
  t.pc = 0x000#12 ∧ (∀ j q, t.reg j q = State.reset.reg j q) ∧ t.bank = State.reset.bank ∧
  (∀ d, t.memRead d = State.reset.memRead d) ∧ t.z = State.reset.z ∧ t.c = State.reset.c ∧
  t.ie = State.reset.ie ∧ t.irq = State.reset.irq ∧ t.stk = State.reset.stk ∧
  t.log = s.log ++ [.stackFault k a] ∧ t.draws = s.draws ∧ ParamsKept s t

/-! The effects instructions share. -/

/-- Instruction `i` completes with `v` in `sX`, flags `z` and `c`, the next address in `pc`, and all else as before. -/
def AluEffect (i : Instr) (s : State) (x : Reg) (v : Byte) (z c : Bool) : Prop :=
  ∃ t, exec i s = .next t ∧ t.x x = v ∧ t.z = z ∧ t.c = c ∧ PcAdvanced s t ∧ RegsKeptBut s.activeBank x s t ∧
    IntKept s t ∧ StackKept s t ∧ ScratchKept s t ∧ PortsKept s t ∧ ParamsKept s t

/-- Instruction `i` completes with flags `z` and `c`, the next address in `pc`, and all else as before. -/
def FlagEffect (i : Instr) (s : State) (z c : Bool) : Prop :=
  ∃ t, exec i s = .next t ∧ t.z = z ∧ t.c = c ∧ PcAdvanced s t ∧ RegsKept s t ∧
    IntKept s t ∧ StackKept s t ∧ ScratchKept s t ∧ PortsKept s t ∧ ParamsKept s t

/-- Instruction `i` completes with `pc` at `a` and all else as before. -/
def JumpEffect (i : Instr) (s : State) (a : Addr) : Prop :=
  ∃ t, exec i s = .next t ∧ t.pc = a ∧ RegsKept s t ∧ FlagsKept s t ∧
    IntKept s t ∧ StackKept s t ∧ ScratchKept s t ∧ PortsKept s t ∧ ParamsKept s t

/-- Instruction `i` completes with only `pc` moved to the next address. -/
def AdvanceEffect (i : Instr) (s : State) : Prop :=
  ∃ t, exec i s = .next t ∧ PcAdvanced s t ∧ RegsKept s t ∧ FlagsKept s t ∧
    IntKept s t ∧ StackKept s t ∧ ScratchKept s t ∧ PortsKept s t ∧ ParamsKept s t

/-- Instruction `i` completes with the frame `f` pushed, `pc` at `a`, and all else as before. -/
def CallEffect (i : Instr) (s : State) (f : Frame) (a : Addr) : Prop :=
  ∃ t, exec i s = .next t ∧ t.pc = a ∧ t.stk = s.stk ++ [f] ∧ RegsKept s t ∧ FlagsKept s t ∧
    IntKept s t ∧ ScratchKept s t ∧ PortsKept s t ∧ ParamsKept s t

/-- Instruction `i` completes with the stack at `rest`, `pc` at the address after `a`, and all else as before. -/
def ReturnEffect (i : Instr) (s : State) (rest : List Frame) (a : Addr) : Prop :=
  ∃ t, exec i s = .next t ∧ t.pc.toNat = (a.toNat + 1) % 4096 ∧ t.stk = rest ∧ RegsKept s t ∧ FlagsKept s t ∧
    IntKept s t ∧ ScratchKept s t ∧ PortsKept s t ∧ ParamsKept s t

/-- Instruction `i` is abandoned and the core reset by a stack fault of kind `k` (60_exceptions.md R804). -/
def StackFaultEffect (i : Instr) (s : State) (k : StackFaultKind) : Prop :=
  ∃ t, exec i s = .next t ∧ ResetByStackFault s t k s.pc

/-- The frame a call or an interrupt entry pushes (10_state.md R124): the address, and with `HAS_BANK` the flags, the bank
selector and the tag. -/
def frameOf (s : State) (a : Addr) (isInt : Bool) : Frame :=
  if s.cfg.hasBank then { addr := a, snap := some { z := s.z, c := s.c, bank := s.bank, isInt := isInt } }
  else { addr := a, snap := none }

/-- The conditional jump of a condition (46_control.md R702 to R705). -/
def jumpOn : Cond → Addr → Instr
  | .z => .jumpZ
  | .nz => .jumpNZ
  | .c => .jumpC
  | .nc => .jumpNC

/-- The conditional call of a condition (46_control.md R711 to R714). -/
def callOn : Cond → Addr → Instr
  | .z => .callZ
  | .nz => .callNZ
  | .c => .callC
  | .nc => .callNC

/-- The conditional return of a condition (46_control.md R731 to R734). -/
def retOn : Cond → Instr
  | .z => .retZ
  | .nz => .retNZ
  | .c => .retC
  | .nc => .retNC

/-- A condition in a state (46_control.md R700): `Z == 1`, `Z == 0`, `C == 1`, `C == 0`. -/
def condTrue (k : Cond) (s : State) : Prop :=
  match k with
  | .z => s.z = true
  | .nz => s.z = false
  | .c => s.c = true
  | .nc => s.c = false

/-- The state with both interrupt bits put to 0, to compare states that may differ in them. -/
def State.maskInt (s : State) : State := (s.setIe false).setIrq false

/-- The same for what a step or a meaning answers. -/
def maskResult : Result → Result
  | .next t => .next t.maskInt
  | .fault f => .fault f
  | .refused r => .refused r

/-- The state with the registers `f` in bank `k`, to compare states that may differ in one bank. -/
def State.putBank (s : State) (k : Bank) (f : RegFile) : State :=
  match k with
  | .a => { s with regsA := f }
  | .b => { s with regsB := f }

/-! What the host may not give (60_exceptions.md R823, decision D34). That the base variant has no bank B, shadow file or
frame snapshot to write is log entry 17. -/

/-- A frame that does not fit: an address or a part of the snapshot too wide, or a snapshot the variant does not have, or a
missing one (10_state.md R120). -/
def RawFrame.ill (k : Cfg) (r : RawFrame) : Prop :=
  2 ^ 12 ≤ r.addr ∨ r.snap.isSome ≠ k.hasBank ∨
    ∃ p, r.snap = some p ∧ (2 ≤ p.z ∨ 2 ≤ p.c ∨ 2 ≤ p.bank ∨ 2 ≤ p.isInt)

/-- A stack deeper than `STACK_DEPTH`, or one with a frame that does not fit. -/
def illStack (k : Cfg) (l : List RawFrame) : Prop := k.stackDepth < l.length ∨ ∃ r ∈ l, r.ill k

/-- A program with an address wider than 12 bits or a word wider than 18. -/
def illWords (ws : List (Nat × Nat)) : Prop := ∃ e ∈ ws, 2 ^ 12 ≤ e.1 ∨ 2 ^ 18 ≤ e.2

/-- Not `n` bytes. -/
def illBytes (n : Nat) (l : List Nat) : Prop := l.length ≠ n ∨ ∃ v ∈ l, 2 ^ 8 ≤ v

/-- A field and a value that does not fit it. -/
def FieldValue.ill (k : Cfg) : FieldValue → Prop
  | .pc v => 2 ^ 12 ≤ v
  | .regA i v | .register i v => 16 ≤ i ∨ 2 ^ 8 ≤ v
  | .regB i v | .shadow i v => k.hasBank = false ∨ 16 ≤ i ∨ 2 ^ 8 ≤ v
  | .bank v | .activeFlag v => 2 ≤ v ∨ (k.hasBank = false ∧ v ≠ 0)
  | .scratch i v => k.scratchSize.bytes ≤ i ∨ 2 ^ 8 ≤ v
  | .z v | .c v | .ie v | .irq v => 2 ≤ v
  | .stk l => illStack k l
  | .program a w => 2 ^ 12 ≤ a ∨ ∃ v, w = some v ∧ 2 ^ 18 ≤ v

/-- A snapshot with a part that does not fit. -/
def SavedState.ill (k : Cfg) (v : SavedState) : Prop :=
  illBytes 16 v.regs ∨ v.shadow.isSome ≠ k.hasBank ∨ (∃ h, v.shadow = some h ∧ (illBytes 16 h.regs ∨ 2 ≤ h.active)) ∨
    illBytes k.scratchSize.bytes v.scratch ∨ illStack k v.stack ∨ 2 ^ 12 ≤ v.pc ∨ 2 ≤ v.z ∨ 2 ≤ v.c ∨ 2 ≤ v.ie ∨
    2 ≤ v.irq ∨ ∃ ws, v.program = some ws ∧ illWords ws

/-- The tokens of an attached device. -/
def deviceTokens (dev : Device) : List Token := (parseSpec dev.spec).getD []

/-- What device `dev` alone binds to address `a` in direction `d` (20_memory.md R242, R243): its last token whose range
holds the address and whose direction allows `d`, with the index `a - low + offset`. -/
def deviceRoute (d : Dir) (dev : Device) (a : Nat) : Option Route :=
  ((deviceTokens dev).reverse.find? fun tok =>
      tok.allows dev d && decide (tok.low ≤ a) && decide (a ≤ tok.high)).map fun tok =>
    { device := dev.id, index := a - tok.low + tok.offset }

/-! How words decode: the formats of 30_encoding.md R307 with a gate of R310, on words whose ignored bits are 0. That the
ignored bits may be anything (R306, decision D4) is a statement of its own, of every word. -/

/-- Every `RR` word with opcode `op` is the instruction `f X Y` where the gate `g` is true, otherwise unassigned. -/
def DecodesRR (op : BitVec 6) (g : Cfg → Bool) (f : Reg → Reg → Instr) : Prop :=
  ∀ k w, w.extractLsb' 12 6 = op → w.extractLsb' 0 4 = 0#4 →
    decode k w = if g k then .instr (f (w.extractLsb' 8 4) (w.extractLsb' 4 4)) else .unassigned w

/-- The same for format `RK`, `f X kk`. -/
def DecodesRK (op : BitVec 6) (g : Cfg → Bool) (f : Reg → Byte → Instr) : Prop :=
  ∀ k w, w.extractLsb' 12 6 = op →
    decode k w = if g k then .instr (f (w.extractLsb' 8 4) (w.extractLsb' 0 8)) else .unassigned w

/-- The same for format `SH`: opcode 0x14 and shift code `code`. -/
def DecodesSH (code : BitVec 4) (f : Reg → Instr) : Prop :=
  ∀ k w, w.extractLsb' 12 6 = 0x14#6 → w.extractLsb' 4 4 = 0#4 → w.extractLsb' 0 4 = code →
    decode k w = .instr (f (w.extractLsb' 8 4))

/-- The same for format `JA`, `f aaa`. -/
def DecodesJA (op : BitVec 6) (f : Addr → Instr) : Prop :=
  ∀ k w, w.extractLsb' 12 6 = op → decode k w = .instr (f (w.extractLsb' 0 12))

/-- The same for format `RT`. -/
def DecodesRT (op : BitVec 6) (i : Instr) : Prop :=
  ∀ k w, w.extractLsb' 12 6 = op → w.extractLsb' 0 12 = 0#12 → decode k w = .instr i

/-- The same for format `B1` with bit `b`. -/
def DecodesB1 (op : BitVec 6) (g : Cfg → Bool) (b : Bool) (i : Instr) : Prop :=
  ∀ k w, w.extractLsb' 12 6 = op → w.extractLsb' 1 11 = 0#11 → w.getLsbD 0 = b →
    decode k w = if g k then .instr i else .unassigned w

/-- The bits of a word that its format names a field for (R307); the others are ignored (R306). -/
def formatMask : Instr → InsnWord
  | .loadReg _ _ | .andReg _ _ | .orReg _ _ | .xorReg _ _ | .inputReg _ _ | .fetchReg _ _ | .testReg _ _
  | .testcyReg _ _ | .addReg _ _ | .addcyReg _ _ | .starReg _ _ | .subReg _ _ | .subcyReg _ _ | .compareReg _ _
  | .comparecyReg _ _ | .callAt _ _ | .jumpAt _ _ | .outputReg _ _ | .storeReg _ _ => 0x3FFF0#18
  | .loadImm _ _ | .andImm _ _ | .orImm _ _ | .xorImm _ _ | .inputImm _ _ | .fetchImm _ _ | .testImm _ _
  | .testcyImm _ _ | .addImm _ _ | .addcyImm _ _ | .starImm _ _ | .subImm _ _ | .subcyImm _ _ | .compareImm _ _
  | .comparecyImm _ _ | .loadReturn _ _ | .outputImm _ _ | .storeImm _ _ | .hwbuild _ => 0x3FFFF#18
  | .sla _ | .rl _ | .slx _ | .sl0 _ | .sl1 _ | .sra _ | .srx _ | .rr _ | .sr0 _ | .sr1 _ => 0x3FF0F#18
  | .call _ | .jump _ | .callZ _ | .jumpZ _ | .callNZ _ | .jumpNZ _ | .callC _ | .jumpC _ | .callNC _ | .jumpNC _ =>
    0x3FFFF#18
  | .outputk _ _ => 0x3FFFF#18
  | .ret | .retZ | .retNZ | .retC | .retNC => 0x3F000#18
  | .disableInterrupt | .enableInterrupt | .returniDisable | .returniEnable | .regbankA | .regbankB => 0x3F001#18

/-- The unassigned words of a configuration as R331 lists them, by opcode number and low byte. -/
def listedUnassigned (k : Cfg) (op low : Nat) : Prop :=
  op ∈ [0x15, 0x23, 0x27, 0x2A, 0x33, 0x3B, 0x3F] ∨
  (op = 0x14 ∧ low % 16 ∈ [0x1, 0x3, 0x5, 0x9, 0xB, 0xD]) ∨
  (k.hasCyOps = false ∧ op ∈ [0x0E, 0x0F, 0x1E, 0x1F]) ∨
  (k.hasIndirect = false ∧ op ∈ [0x24, 0x26]) ∨
  (k.hasBank = false ∧ op = 0x37) ∨
  ((k.kcpsm6Extras && k.hasBank) = false ∧ op ∈ [0x16, 0x17]) ∨
  (k.kcpsm6Extras = false ∧ op ∈ [0x21, 0x2B])

/-- No gate. -/
def ungated (_ : Cfg) : Bool := true

/-! Clean runs (10_state.md R140). -/

/-- No stack fault is in the log. -/
def noStackFault (l : List Event) : Bool :=
  l.all fun e => match e with
    | .stackFault _ _ => false
    | _ => true

/-- No unassigned word is in the log. -/
def noUnassigned (l : List Event) : Bool :=
  l.all fun e => match e with
    | .unassigned _ _ => false
    | _ => true

/-- A run so far that neither reset on a stack fault nor ran an unassigned word. -/
def State.clean (s : State) : Bool := noStackFault s.log && noUnassigned s.log

/-- The event codes of 60_exceptions.md R801. -/
def Event.code : Event → Nat
  | .stackFault .overflow _ => 1
  | .stackFault .underflow _ => 2
  | .unassigned _ _ => 3
  | .interruptEntry _ => 6
  | .portAccess _ _ _ _ => 7

/-- The codes of the strict-mode faults (R801). -/
def Fault.code : Fault → Nat
  | .unassignedOpcode _ _ => 4
  | .frameMismatch _ => 5

end Sys2Proof.Machine
end

