-- ==== Sys2Proof/Certificates/Slice0/Obligations.lean ====
section
/-!
DEFINITION. The statements of the model. Each docstring names the rule of spec/ it formalises; where a clause rests on one of
the spec's own decisions (92_eei_decisions.md D<n>) or general-knowledge passages (93 G<n>) it says so.
-/
open Sys2Proof Sys2Proof.Machine

/-! ### Encoding and decode (30_encoding.md) -/

/-- Every instruction a configuration has is read back from the word it is encoded to, with every operand at every value. -/
def Obligations.DecodeOfEncodeIsTheInstruction : Prop :=
  ∀ (k : Cfg) (i : Instr), i.wf k = true → decode k (encode i) = .instr i

/-- A word decodes to an instruction exactly when the configuration has that instruction and the word agrees with the
instruction's own word in every bit its format names (R307, R320), so the other bits are ignored (R306, the spec's decision D4);
but with `HAS_BANK` the `SLA` word with low byte 0x80 is not `SLA` (the spec's decision D32). -/
def Obligations.DecodedWordAgreesOnItsFields : Prop :=
  ∀ (k : Cfg) (w : InsnWord) (i : Instr), decode k w = .instr i ↔
    (i.wf k = true ∧ w &&& formatMask i = encode i ∧
      (k.hasBank = true → (∃ x, i = .sla x) → w.extractLsb' 0 8 ≠ 0x80#8))

/-- Decode leaves unassigned exactly the words R331 lists [derived in the spec], and answers the word itself. -/
def Obligations.UnassignedWordsAreExactlyThoseListed : Prop :=
  ∀ (k : Cfg) (w u : InsnWord), decode k w = .unassigned u ↔
    (u = w ∧ listedUnassigned k (w.extractLsb' 12 6).toNat (w.extractLsb' 0 8).toNat)

/-- Words the spec writes out in its examples decode to the instructions they stand for (R345; 95_test_vectors.md E1, E2, V-H1,
V-H3, V-C15, Program 6). That 0x14280 is `HWBUILD` with `HAS_BANK` and `SLA` without is the spec's decision D32 (R320). -/
def Obligations.ExampleWordsDecode : Prop :=
  ∀ v id, decode (Cfg.extended v id) 0x10010#18 = .instr (.addReg 0 1) ∧
    decode (Cfg.extended v id) 0x11005#18 = .instr (.addImm 0 0x05) ∧
    decode (Cfg.extended v id) 0x1A120#18 = .instr (.subcyReg 1 2) ∧
    decode (Cfg.extended v id) 0x0A340#18 = .instr (.fetchReg 3 4) ∧
    decode (Cfg.extended v id) 0x14280#18 = .instr (.hwbuild 2) ∧
    decode (Cfg.base v id) 0x14280#18 = .instr (.sla 2) ∧
    decode (Cfg.extended v id) 0x24120#18 = .instr (.callAt 1 2) ∧
    decode (Cfg.base v id) 0x24120#18 = .unassigned 0x24120#18

/-! ### The cycle (60_exceptions.md R810, 30_encoding.md R302) -/

/-- R810: a cycle is the interrupt entry when `IE` and `IRQ` are both 1, and otherwise fetch, decode, execute: a step runs
the instruction decoded from the word at `pc`. -/
def Obligations.StepRunsTheDecodedInstruction : Prop :=
  ∀ s : State,
    (s.ie = true ∧ s.irq = true → step s = .next s.interruptEntry) ∧
    (¬(s.ie = true ∧ s.irq = true) →
      (∀ i, decode s.cfg (s.pmRead s.pc) = .instr i → step s = exec i s) ∧
      (∀ w, decode s.cfg (s.pmRead s.pc) = .unassigned w → step s = s.runUnassigned w))

/-- An unassigned word at `pc` (R330, R806 [D3]): in default mode nothing but `pc` and one log entry changes; in strict mode
the step is the final fault that records the word and the address. -/
def Obligations.UnassignedWordIsNoOpOrStrictFault : Prop :=
  ∀ (s : State) (w : InsnWord), ¬(s.ie = true ∧ s.irq = true) → decode s.cfg (s.pmRead s.pc) = .unassigned w →
    (s.cfg.strictDecode = true → step s = .fault (.unassignedOpcode w s.pc)) ∧
    (s.cfg.strictDecode = false →
      ∃ t, step s = .next t ∧ PcAdvanced s t ∧ t.log = s.log ++ [.unassigned w s.pc] ∧ t.draws = s.draws ∧
        RegsKept s t ∧ FlagsKept s t ∧ IntKept s t ∧ StackKept s t ∧ ScratchKept s t ∧ ParamsKept s t)

/-- Fetch at an address with no word reads 0x00000 (20_memory.md R201 [D24]), `LOAD s0, s0`: the step changes only `pc`. -/
def Obligations.UnassignedAddressOnlyAdvances : Prop :=
  ∀ s : State, ¬(s.ie = true ∧ s.irq = true) → Sparse.lookup s.pm s.pc.toNat = none →
    ∃ t, step s = .next t ∧ PcAdvanced s t ∧ RegsKept s t ∧ FlagsKept s t ∧ IntKept s t ∧ StackKept s t ∧
      ScratchKept s t ∧ PortsKept s t ∧ ParamsKept s t

/-! ### Interrupt entry, stack faults, reset (60_exceptions.md, 70_reset_and_hazards.md) -/

/-- R811: on a pending, enabled interrupt the cycle clears `IE` and `IRQ`, pushes the interrupt frame of the state before
(with `pc` the preempted address) and goes to `INT_VECTOR`, logged; on a full stack the core resets instead. That registers,
flags, scratch pad and `BANK` are kept is the spec's decision D19. -/
def Obligations.InterruptEntrySavesTheContext : Prop :=
  ∀ s : State, s.ie = true → s.irq = true →
    (s.stk.length ≠ s.cfg.stackDepth →
      ∃ t, step s = .next t ∧ t.pc = s.cfg.intVector ∧ t.ie = false ∧ t.irq = false ∧
        t.stk = s.stk ++ [frameOf s s.pc true] ∧ t.log = s.log ++ [.interruptEntry s.pc] ∧ t.draws = s.draws ∧
        RegsKept s t ∧ FlagsKept s t ∧ ScratchKept s t ∧ ParamsKept s t) ∧
    (s.stk.length = s.cfg.stackDepth → ∃ t, step s = .next t ∧ ResetByStackFault s t .overflow s.pc)

/-- R122, R123: a push fails exactly when the stack holds `STACK_DEPTH` frames and otherwise appends the frame on top; a pop
fails exactly when the stack is empty and otherwise removes and returns the top frame. -/
def Obligations.PushAndPopFollowTheBounds : Prop :=
  ∀ (s : State) (f : Frame),
    (s.stk.length = s.cfg.stackDepth → s.push f = none) ∧
    (s.stk.length ≠ s.cfg.stackDepth → ∃ t, s.push f = some t ∧ t = { s with stk := s.stk ++ [f] }) ∧
    (s.stk = [] → s.pop = none) ∧
    (∀ rest, s.stk = rest ++ [f] → ∃ t, s.pop = some (f, t) ∧ t = { s with stk := rest })

/-- R803, R804: every instruction or interrupt entry that pushes on a full stack, and every instruction that pops an empty one, is
abandoned: the core goes to its power-on state with `pc` 0, the stack fault is logged with its kind and the address, and nothing
else of the instruction or entry happens. -/
def Obligations.StackFaultAbandonsAndResets : Prop :=
  ∀ s : State,
    (s.stk.length = s.cfg.stackDepth →
      (∀ a, StackFaultEffect (.call a) s .overflow) ∧ (∀ x y, StackFaultEffect (.callAt x y) s .overflow) ∧
      (∀ k a, condTrue k s → StackFaultEffect (callOn k a) s .overflow) ∧
      (s.ie = true → s.irq = true → ∃ t, step s = .next t ∧ ResetByStackFault s t .overflow s.pc)) ∧
    (s.stk = [] →
      StackFaultEffect .ret s .underflow ∧ (∀ k, condTrue k s → StackFaultEffect (retOn k) s .underflow) ∧
      (∀ x kk, StackFaultEffect (.loadReturn x kk) s .underflow) ∧
      StackFaultEffect .returniEnable s .underflow ∧ StackFaultEffect .returniDisable s .underflow)

/-- The state after power-on (R150 [D7], R902 [D7]): `pc` 0, all registers, flags, interrupt bits and the scratch pad zero, bank
A, empty stack, empty log. That no program is loaded and no device attached in `State.reset` is the model's choice, log entry 9:
R903 [D29] has the host load the one and attach the other. -/
def Obligations.ResetStateIsAllZero : Prop :=
  State.reset.pc = 0x000#12 ∧ (∀ j q, State.reset.reg j q = 0x00#8) ∧ State.reset.bank = .a ∧
    (∀ d, State.reset.memRead d = 0x00#8) ∧ State.reset.z = false ∧ State.reset.c = false ∧
    State.reset.ie = false ∧ State.reset.irq = false ∧ State.reset.stk = [] ∧ State.reset.log = [] ∧
    (∀ a, State.reset.pmAt a = none) ∧ State.reset.devices = []

/-- The host's `reset()` (R821, R900 [D31 for devices]): reset values in every architectural field (R150 [D7]); configuration,
program memory, devices, router tables, log and draws kept. -/
def Obligations.HostResetKeepsTheParameters : Prop :=
  ∀ s : State, ∃ t, s.hostAct .reset = .done t ∧
    t.pc = 0x000#12 ∧ (∀ j q, t.reg j q = 0x00#8) ∧ t.bank = .a ∧ (∀ d, t.memRead d = 0x00#8) ∧
    t.z = false ∧ t.c = false ∧ t.ie = false ∧ t.irq = false ∧ t.stk = [] ∧ PortsKept s t ∧ ParamsKept s t

/-- R820: `trigInt()` sets `IRQ` and nothing else; the entry happens at the next cycle whose check fires. -/
def Obligations.TrigIntSetsOnlyTheLatch : Prop :=
  ∀ s : State, ∃ t, s.hostAct .trigInt = .done t ∧ t.irq = true ∧ t.ie = s.ie ∧ t.pc = s.pc ∧ RegsKept s t ∧
    FlagsKept s t ∧ StackKept s t ∧ ScratchKept s t ∧ PortsKept s t ∧ ParamsKept s t ∧
    (s.ie = true → step t = .next t.interruptEntry)

/-! ### Load and logical (40_load_logical.md) -/

/-- R401: `LOAD` copies operand B into `sX`; the flags are kept (the spec's decision D13). -/
def Obligations.LoadCopiesTheOperand : Prop :=
  DecodesRR 0x00#6 ungated .loadReg ∧ DecodesRK 0x01#6 ungated .loadImm ∧
  ∀ (s : State) (x y : Reg) (kk : Byte),
    AluEffect (.loadReg x y) s x (s.x y) s.z s.c ∧ AluEffect (.loadImm x kk) s x kk s.z s.c

/-- R402 to R404: bitwise AND, OR, XOR into `sX`, `Z` per result, `C` cleared (the spec's decision D12). -/
def Obligations.LogicalWritesResultAndClearsCarry : Prop :=
  DecodesRR 0x02#6 ungated .andReg ∧ DecodesRK 0x03#6 ungated .andImm ∧
  DecodesRR 0x04#6 ungated .orReg ∧ DecodesRK 0x05#6 ungated .orImm ∧
  DecodesRR 0x06#6 ungated .xorReg ∧ DecodesRK 0x07#6 ungated .xorImm ∧
  ∀ (s : State) (x y : Reg) (kk : Byte),
    AluEffect (.andReg x y) s x (s.x x &&& s.x y) (decide (s.x x &&& s.x y = 0)) false ∧
    AluEffect (.andImm x kk) s x (s.x x &&& kk) (decide (s.x x &&& kk = 0)) false ∧
    AluEffect (.orReg x y) s x (s.x x ||| s.x y) (decide (s.x x ||| s.x y = 0)) false ∧
    AluEffect (.orImm x kk) s x (s.x x ||| kk) (decide (s.x x ||| kk = 0)) false ∧
    AluEffect (.xorReg x y) s x (s.x x ^^^ s.x y) (decide (s.x x ^^^ s.x y = 0)) false ∧
    AluEffect (.xorImm x kk) s x (s.x x ^^^ kk) (decide (s.x x ^^^ kk = 0)) false

/-! ### Arithmetic (41_arithmetic.md) -/

/-- R451: `ADD` writes the sum modulo 256, `C` is the unsigned overflow, `Z` per result. -/
def Obligations.AddWritesSumAndOverflow : Prop :=
  DecodesRR 0x10#6 ungated .addReg ∧ DecodesRK 0x11#6 ungated .addImm ∧
  ∀ (s : State) (x y : Reg) (kk : Byte),
    AluEffect (.addReg x y) s x (s.x x + s.x y) (decide (s.x x + s.x y = 0))
      (decide (255 < (s.x x).toNat + (s.x y).toNat)) ∧
    AluEffect (.addImm x kk) s x (s.x x + kk) (decide (s.x x + kk = 0)) (decide (255 < (s.x x).toNat + kk.toNat))

/-- R452: `ADDCY` adds the carry as a third addend; `Z` per result alone is the spec's decision D38. -/
def Obligations.AddcyAddsTheCarry : Prop :=
  DecodesRR 0x12#6 ungated .addcyReg ∧ DecodesRK 0x13#6 ungated .addcyImm ∧
  ∀ (s : State) (x y : Reg) (kk : Byte),
    AluEffect (.addcyReg x y) s x (BitVec.ofNat 8 ((s.x x).toNat + (s.x y).toNat + s.c.toNat))
      (decide (((s.x x).toNat + (s.x y).toNat + s.c.toNat) % 256 = 0))
      (decide (255 < (s.x x).toNat + (s.x y).toNat + s.c.toNat)) ∧
    AluEffect (.addcyImm x kk) s x (BitVec.ofNat 8 ((s.x x).toNat + kk.toNat + s.c.toNat))
      (decide (((s.x x).toNat + kk.toNat + s.c.toNat) % 256 = 0))
      (decide (255 < (s.x x).toNat + kk.toNat + s.c.toNat))

/-- R453: `SUB` writes the difference modulo 256, `C` is the borrow (the subtrahend exceeds the minuend), `Z` per result. -/
def Obligations.SubWritesDifferenceAndBorrow : Prop :=
  DecodesRR 0x18#6 ungated .subReg ∧ DecodesRK 0x19#6 ungated .subImm ∧
  ∀ (s : State) (x y : Reg) (kk : Byte),
    AluEffect (.subReg x y) s x (s.x x - s.x y) (decide (s.x x = s.x y)) (decide ((s.x x).toNat < (s.x y).toNat)) ∧
    AluEffect (.subImm x kk) s x (s.x x - kk) (decide (s.x x = kk)) (decide ((s.x x).toNat < kk.toNat))

/-- R454: `SUBCY` subtracts the carry too; `Z` per result alone is the spec's decision D38. -/
def Obligations.SubcySubtractsTheCarry : Prop :=
  DecodesRR 0x1A#6 ungated .subcyReg ∧ DecodesRK 0x1B#6 ungated .subcyImm ∧
  ∀ (s : State) (x y : Reg) (kk : Byte),
    AluEffect (.subcyReg x y) s x (s.x x - s.x y - BitVec.ofNat 8 s.c.toNat)
      (decide (s.x x - s.x y - BitVec.ofNat 8 s.c.toNat = 0))
      (decide ((s.x x).toNat < (s.x y).toNat + s.c.toNat)) ∧
    AluEffect (.subcyImm x kk) s x (s.x x - kk - BitVec.ofNat 8 s.c.toNat)
      (decide (s.x x - kk - BitVec.ofNat 8 s.c.toNat = 0)) (decide ((s.x x).toNat < kk.toNat + s.c.toNat))

/-! ### Test and compare (42_test_compare.md) -/

/-- R501, R502: `TEST` sets `Z` from the conjunction and `C` to 1 when it has an odd number of one bits (polarity: the spec's
decision D14); `TESTCY` (gate `HAS_CY_OPS`) counts the carry as one bit more (exclusive or: D14) and takes `Z` from its own
conjunction alone (D38). No register is written. -/
def Obligations.TestSetsZeroAndOddParity : Prop :=
  DecodesRR 0x0C#6 ungated .testReg ∧ DecodesRK 0x0D#6 ungated .testImm ∧
  DecodesRR 0x0E#6 Cfg.hasCyOps .testcyReg ∧ DecodesRK 0x0F#6 Cfg.hasCyOps .testcyImm ∧
  ∀ (s : State) (x y : Reg) (kk : Byte) (i : Instr) (b : Byte) (cin : Nat),
    (i, b, cin) ∈ [(Instr.testReg x y, s.x y, 0), (.testImm x kk, kk, 0),
      (.testcyReg x y, s.x y, s.c.toNat), (.testcyImm x kk, kk, s.c.toNat)] →
    FlagEffect i s (decide (s.x x &&& b = 0))
      (decide ((((List.range 8).countP fun j => (s.x x &&& b).getLsbD j) + cin) % 2 = 1))

/-- R503: `COMPARE` sets `Z` when register and operand are equal and `C` when the operand is greater, unsigned; no register is
written. -/
def Obligations.CompareSetsEqualAndGreater : Prop :=
  DecodesRR 0x1C#6 ungated .compareReg ∧ DecodesRK 0x1D#6 ungated .compareImm ∧
  ∀ (s : State) (x y : Reg) (kk : Byte),
    FlagEffect (.compareReg x y) s (decide (s.x x = s.x y)) (decide ((s.x x).toNat < (s.x y).toNat)) ∧
    FlagEffect (.compareImm x kk) s (decide (s.x x = kk)) (decide ((s.x x).toNat < kk.toNat))

/-- R504: `COMPARECY` counts the carry into the operand (decision D39); `Z` from the 8-bit difference (decision D38); gate
`HAS_CY_OPS`. -/
def Obligations.ComparecyCountsTheCarryIn : Prop :=
  DecodesRR 0x1E#6 Cfg.hasCyOps .comparecyReg ∧ DecodesRK 0x1F#6 Cfg.hasCyOps .comparecyImm ∧
  ∀ (s : State) (x y : Reg) (kk : Byte),
    FlagEffect (.comparecyReg x y) s (decide (s.x x - s.x y - BitVec.ofNat 8 s.c.toNat = 0))
      (decide ((s.x x).toNat < (s.x y).toNat + s.c.toNat)) ∧
    FlagEffect (.comparecyImm x kk) s (decide (s.x x - kk - BitVec.ofNat 8 s.c.toNat = 0))
      (decide ((s.x x).toNat < kk.toNat + s.c.toNat))

/-! ### Shifts, rotates, HWBUILD (43_shift_rotate.md) -/

/-- R550 to R554: the left shifts move every bit up one place, the old bit 7 into `C`, `Z` per result; the bit moved in is 0, 1,
the old bit 0, the old carry, or the old bit 7. -/
def Obligations.LeftShiftsMoveBitSevenToCarry : Prop :=
  DecodesSH 0x6#4 .sl0 ∧ DecodesSH 0x7#4 .sl1 ∧ DecodesSH 0x4#4 .slx ∧ DecodesSH 0x0#4 .sla ∧ DecodesSH 0x2#4 .rl ∧
  ∀ (s : State) (x : Reg) (i : Instr) (b : Bool),
    (i, b) ∈ [(Instr.sl0 x, false), (.sl1 x, true), (.slx x, (s.x x).getLsbD 0), (.sla x, s.c),
      (.rl x, (s.x x).getLsbD 7)] →
    ∃ r : Byte, r.getLsbD 0 = b ∧ (∀ j, j < 7 → r.getLsbD (j + 1) = (s.x x).getLsbD j) ∧
      AluEffect i s x r (decide (r = 0)) ((s.x x).getLsbD 7)

/-- R555 to R559: the right shifts move every bit down one place, the old bit 0 into `C`, `Z` per result; the bit moved in is 0,
1, the old bit 7, the old carry, or the old bit 0. -/
def Obligations.RightShiftsMoveBitZeroToCarry : Prop :=
  DecodesSH 0xE#4 .sr0 ∧ DecodesSH 0xF#4 .sr1 ∧ DecodesSH 0xA#4 .srx ∧ DecodesSH 0x8#4 .sra ∧ DecodesSH 0xC#4 .rr ∧
  ∀ (s : State) (x : Reg) (i : Instr) (b : Bool),
    (i, b) ∈ [(Instr.sr0 x, false), (.sr1 x, true), (.srx x, (s.x x).getLsbD 7), (.sra x, s.c),
      (.rr x, (s.x x).getLsbD 0)] →
    ∃ r : Byte, r.getLsbD 7 = b ∧ (∀ j, j < 7 → r.getLsbD j = (s.x x).getLsbD (j + 1)) ∧
      AluEffect i s x r (decide (r = 0)) ((s.x x).getLsbD 0)

/-- R560: `HWBUILD` writes `HWBUILD_ID`, forces `C` to 1 and sets `Z` when the identifier is 0; its word is the shift opcode with
low byte 0x80 (a value from general knowledge, says R560). That the word is `HWBUILD` before it is `SLA`, and `SLA` without
`HAS_BANK`, is the spec's decision D32 (R320). -/
def Obligations.HwbuildReadsTheIdentifier : Prop :=
  (∀ (k : Cfg) (w : InsnWord), w.extractLsb' 12 6 = 0x14#6 → w.extractLsb' 0 8 = 0x80#8 →
    decode k w = if k.hasBank then .instr (.hwbuild (w.extractLsb' 8 4)) else .instr (.sla (w.extractLsb' 8 4))) ∧
  ∀ (s : State) (x : Reg), AluEffect (.hwbuild x) s x s.cfg.hwbuildId (decide (s.cfg.hwbuildId = 0)) true

/-! ### Scratch pad and ports (44_memory_io.md) -/

/-- R601: `FETCH` loads the scratch-pad byte at operand B modulo `SCRATCH_SIZE` (decision D8) into `sX`; the flags are kept
(decision D13). -/
def Obligations.FetchLoadsAScratchByte : Prop :=
  DecodesRR 0x0A#6 ungated .fetchReg ∧ DecodesRK 0x0B#6 ungated .fetchImm ∧
  ∀ (s : State) (x y : Reg) (ss : Byte),
    AluEffect (.fetchReg x y) s x (Memory.read s.sp ((s.x y).toNat % s.cfg.scratchSize.bytes)) s.z s.c ∧
    AluEffect (.fetchImm x ss) s x (Memory.read s.sp (ss.toNat % s.cfg.scratchSize.bytes)) s.z s.c

/-- R602: `STORE` writes `sX` at operand B modulo `SCRATCH_SIZE` (decision D8): every address that reaches that location reads
the value, every other reads as before; registers and flags are kept (decision D13). -/
def Obligations.StoreWritesOneScratchByte : Prop :=
  DecodesRR 0x2E#6 ungated .storeReg ∧ DecodesRK 0x2F#6 ungated .storeImm ∧
  ∀ (s : State) (x y : Reg) (ss : Byte) (i : Instr) (ea : Byte),
    (i, ea) ∈ [(Instr.storeReg x y, s.x y), (.storeImm x ss, ss)] →
    ∃ t, exec i s = .next t ∧
      (∀ d : Byte, t.memRead d =
        if d.toNat % s.cfg.scratchSize.bytes = ea.toNat % s.cfg.scratchSize.bytes then s.x x else s.memRead d) ∧
      PcAdvanced s t ∧ RegsKept s t ∧ FlagsKept s t ∧ IntKept s t ∧ StackKept s t ∧ PortsKept s t ∧ ParamsKept s t

/-- R605: `INPUT` makes one read dispatch and takes its answer into `sX`: from an unbound port 0 (R233), from a bound one the
device's value, in the model the free value `Config.deviceValue` of the next draw (R231; the draw and its counter are the model's
own, log entry 5; the statement holds whatever the value is). The dispatch is one log entry (R140, decision D27) with the
zero-extended port (R230, decision D20), and nothing else changes. -/
def Obligations.InputTakesOneReadDispatch : Prop :=
  DecodesRR 0x08#6 ungated .inputReg ∧ DecodesRK 0x09#6 ungated .inputImm ∧
  ∀ (s : State) (x y : Reg) (pp : Byte) (i : Instr) (p : Byte),
    (i, p) ∈ [(Instr.inputReg x y, s.x y), (.inputImm x pp, pp)] →
    ∃ t v, exec i s = .next t ∧ t.x x = v ∧
      (Sparse.lookup s.rt p.toNat = none → v = 0 ∧ t.draws = s.draws) ∧
      (∀ r, Sparse.lookup s.rt p.toNat = some r →
        v = Config.deviceValue s.draws r.device r.index ∧ t.draws = s.draws + 1) ∧
      t.log = s.log ++ [.portAccess .read (BitVec.ofNat 12 p.toNat) (Sparse.lookup s.rt p.toNat) v] ∧
      PcAdvanced s t ∧ RegsKeptBut s.activeBank x s t ∧ FlagsKept s t ∧ IntKept s t ∧ StackKept s t ∧
      ScratchKept s t ∧ ParamsKept s t

/-- R610: `OUTPUT` makes one write dispatch of `sX`, to the device and index bound to the port, or dropped at an unbound one
(R233); nothing in the core changes. The dispatch is one log entry (R140, decision D27) with the zero-extended port (R232, R230,
decision D20); that it is that entry and nothing else is log entry 6. -/
def Obligations.OutputMakesOneWriteDispatch : Prop :=
  DecodesRR 0x2C#6 ungated .outputReg ∧ DecodesRK 0x2D#6 ungated .outputImm ∧
  ∀ (s : State) (x y : Reg) (pp : Byte) (i : Instr) (p : Byte),
    (i, p) ∈ [(Instr.outputReg x y, s.x y), (.outputImm x pp, pp)] →
    ∃ t, exec i s = .next t ∧
      t.log = s.log ++ [.portAccess .write (BitVec.ofNat 12 p.toNat) (Sparse.lookup s.wt p.toNat) (s.x x)] ∧
      t.draws = s.draws ∧ PcAdvanced s t ∧ RegsKept s t ∧ FlagsKept s t ∧ IntKept s t ∧ StackKept s t ∧
      ScratchKept s t ∧ ParamsKept s t

/-- R611 (general knowledge G10, gate `KCPSM6_EXTRAS`): `OUTPUTK` writes its constant to one of ports 0 to 15. The dispatch is one
log entry (R140, decision D27) with the zero-extended port (decision D20) and nothing else (log entry 6). -/
def Obligations.OutputkWritesAConstant : Prop :=
  (∀ (k : Cfg) (w : InsnWord), w.extractLsb' 12 6 = 0x2B#6 → decode k w =
    if k.kcpsm6Extras then .instr (.outputk (w.extractLsb' 4 8) (w.extractLsb' 0 4)) else .unassigned w) ∧
  ∀ (s : State) (kx : Byte) (p : BitVec 4), ∃ t, exec (.outputk kx p) s = .next t ∧
    t.log = s.log ++ [.portAccess .write (BitVec.ofNat 12 p.toNat) (Sparse.lookup s.wt p.toNat) kx] ∧
    t.draws = s.draws ∧ PcAdvanced s t ∧ RegsKept s t ∧ FlagsKept s t ∧ IntKept s t ∧ StackKept s t ∧
    ScratchKept s t ∧ ParamsKept s t

/-! ### Register banks (45_bank.md) -/

/-- R651, R652 (decisions D13, D16): `REGBANK` makes a bank active and changes no register of either; without `HAS_BANK` the
words are unassigned. -/
def Obligations.RegbankSelectsTheBank : Prop :=
  DecodesB1 0x37#6 Cfg.hasBank false .regbankA ∧ DecodesB1 0x37#6 Cfg.hasBank true .regbankB ∧
  ∀ s : State, s.cfg.hasBank = true →
    ∀ i k, (i, k) ∈ [(Instr.regbankA, Bank.a), (.regbankB, .b)] →
    ∃ t, exec i s = .next t ∧ t.bank = k ∧ (∀ r, t.x r = s.reg k r) ∧ RegFilesKept s t ∧ PcAdvanced s t ∧
      FlagsKept s t ∧ IntKept s t ∧ StackKept s t ∧ ScratchKept s t ∧ PortsKept s t ∧ ParamsKept s t

/-- R655 (general knowledge G10, gate `KCPSM6_EXTRAS` and `HAS_BANK`): `STAR` writes operand B into register `sX` of the inactive
bank and changes nothing else. -/
def Obligations.StarWritesTheInactiveBank : Prop :=
  DecodesRR 0x16#6 (fun k => k.kcpsm6Extras && k.hasBank) .starReg ∧
  DecodesRK 0x17#6 (fun k => k.kcpsm6Extras && k.hasBank) .starImm ∧
  ∀ s : State, s.cfg.hasBank = true →
    ∀ (x y : Reg) (kk : Byte) (i : Instr) (v : Byte), (i, v) ∈ [(Instr.starReg x y, s.x y), (.starImm x kk, kk)] →
    ∀ other, other ≠ s.bank →
    ∃ t, exec i s = .next t ∧ t.reg other x = v ∧ RegsKeptBut other x s t ∧ PcAdvanced s t ∧
      FlagsKept s t ∧ IntKept s t ∧ StackKept s t ∧ ScratchKept s t ∧ PortsKept s t ∧ ParamsKept s t

/-! ### Jump, call, return (46_control.md) -/

/-- R701: `JUMP` goes to its 12-bit target and changes nothing else; a jump to its own address is exposed as the self-jump
signal and executes as any other. -/
def Obligations.JumpGoesToItsTarget : Prop :=
  DecodesJA 0x22#6 .jump ∧ ∀ (s : State) (a : Addr), JumpEffect (.jump a) s a ∧
    (decode s.cfg (s.pmRead s.pc) = .instr (.jump a) → (s.selfJump = true ↔ a = s.pc))

/-- R702 to R705, R700: a conditional jump goes to its target when the condition holds and to the next address when it does
not. It is never the self-jump of R701 (decision D33). -/
def Obligations.ConditionalJumpFollowsItsCondition : Prop :=
  DecodesJA 0x32#6 .jumpZ ∧ DecodesJA 0x36#6 .jumpNZ ∧ DecodesJA 0x3A#6 .jumpC ∧ DecodesJA 0x3E#6 .jumpNC ∧
  ∀ (s : State) (k : Cond) (a : Addr),
    (condTrue k s → JumpEffect (jumpOn k a) s a) ∧ (¬condTrue k s → AdvanceEffect (jumpOn k a) s) ∧
    (decode s.cfg (s.pmRead s.pc) = .instr (jumpOn k a) → s.selfJump = false)

/-- R721 (target formula: decision D35; gate `HAS_INDIRECT`): `JUMP@` goes to `sX[3:0] ++ sY`. -/
def Obligations.IndirectJumpJoinsTwoRegisters : Prop :=
  DecodesRR 0x26#6 Cfg.hasIndirect .jumpAt ∧
  ∀ (s : State) (x y : Reg), ∃ a : Addr, a.toNat = (s.x x).toNat % 16 * 256 + (s.x y).toNat ∧
    JumpEffect (.jumpAt x y) s a

/-- R710: `CALL` pushes the call frame of its own address and goes to its target; on a full stack the core resets and the jump
does not happen. -/
def Obligations.CallPushesTheCallSite : Prop :=
  DecodesJA 0x20#6 .call ∧
  ∀ (s : State) (a : Addr),
    (s.stk.length ≠ s.cfg.stackDepth → CallEffect (.call a) s (frameOf s s.pc false) a) ∧
    (s.stk.length = s.cfg.stackDepth → StackFaultEffect (.call a) s .overflow)

/-- R711 to R714: a conditional call is `CALL` when its condition holds; when it does not, nothing is pushed, a full stack does not
fault and only `pc` moves on. -/
def Obligations.ConditionalCallFollowsItsCondition : Prop :=
  DecodesJA 0x30#6 .callZ ∧ DecodesJA 0x34#6 .callNZ ∧ DecodesJA 0x38#6 .callC ∧ DecodesJA 0x3C#6 .callNC ∧
  ∀ (s : State) (k : Cond) (a : Addr),
    (condTrue k s → s.stk.length ≠ s.cfg.stackDepth → CallEffect (callOn k a) s (frameOf s s.pc false) a) ∧
    (condTrue k s → s.stk.length = s.cfg.stackDepth → StackFaultEffect (callOn k a) s .overflow) ∧
    (¬condTrue k s → AdvanceEffect (callOn k a) s)

/-- R722 (target formula: decision D35; gate `HAS_INDIRECT`): `CALL@` calls `sX[3:0] ++ sY`. -/
def Obligations.IndirectCallJoinsTwoRegisters : Prop :=
  DecodesRR 0x24#6 Cfg.hasIndirect .callAt ∧
  ∀ (s : State) (x y : Reg), ∃ a : Addr, a.toNat = (s.x x).toNat % 16 * 256 + (s.x y).toNat ∧
    (s.stk.length ≠ s.cfg.stackDepth → CallEffect (.callAt x y) s (frameOf s s.pc false) a) ∧
    (s.stk.length = s.cfg.stackDepth → StackFaultEffect (.callAt x y) s .overflow)

/-- R730: `RETURN` pops the top frame and goes to its address plus one; flags and bank are not restored; on an empty stack the
core resets. -/
def Obligations.ReturnGoesPastTheCallSite : Prop :=
  DecodesRT 0x25#6 .ret ∧
  ∀ (s : State) (rest : List Frame) (f : Frame),
    (s.stk = rest ++ [f] → ReturnEffect .ret s rest f.addr) ∧ (s.stk = [] → StackFaultEffect .ret s .underflow)

/-- R731 to R734: a conditional return is `RETURN` when its condition holds; when it does not, nothing is popped, an empty stack
does not fault and only `pc` moves on. -/
def Obligations.ConditionalReturnFollowsItsCondition : Prop :=
  DecodesRT 0x31#6 .retZ ∧ DecodesRT 0x35#6 .retNZ ∧ DecodesRT 0x39#6 .retC ∧ DecodesRT 0x3D#6 .retNC ∧
  ∀ (s : State) (k : Cond) (rest : List Frame) (f : Frame),
    (condTrue k s → s.stk = rest ++ [f] → ReturnEffect (retOn k) s rest f.addr) ∧
    (condTrue k s → s.stk = [] → StackFaultEffect (retOn k) s .underflow) ∧
    (¬condTrue k s → AdvanceEffect (retOn k) s)

/-- R740 (general knowledge G10, gate `KCPSM6_EXTRAS`): `LOAD&RETURN` loads a constant and returns; on an empty stack the load is
abandoned with the rest. -/
def Obligations.LoadReturnLoadsAndReturns : Prop :=
  DecodesRK 0x21#6 Cfg.kcpsm6Extras .loadReturn ∧
  ∀ (s : State) (x : Reg) (kk : Byte) (rest : List Frame) (f : Frame),
    (s.stk = rest ++ [f] → ∃ t, exec (.loadReturn x kk) s = .next t ∧ t.x x = kk ∧
      t.pc.toNat = (f.addr.toNat + 1) % 4096 ∧ t.stk = rest ∧ RegsKeptBut s.activeBank x s t ∧ FlagsKept s t ∧
      IntKept s t ∧ ScratchKept s t ∧ PortsKept s t ∧ ParamsKept s t) ∧
    (s.stk = [] → StackFaultEffect (.loadReturn x kk) s .underflow)

/-- A `CALL` followed, at its target, by a `RETURN` gives back the stack and goes to the call site plus one (R124, R730;
95_test_vectors.md E6). -/
def Obligations.CallThenReturnComesBack : Prop :=
  ∀ (s t : State) (a : Addr), s.stk.length < s.cfg.stackDepth → exec (.call a) s = .next t →
    ∃ u, exec .ret t = .next u ∧ u.pc.toNat = (s.pc.toNat + 1) % 4096 ∧ u.stk = s.stk ∧ RegsKept s u ∧ FlagsKept s u

/-! ### Interrupt control (47_interrupt_ctl.md) -/

/-- R780, R781: the two instructions clear and set `IE` and change nothing else; a latched request stays latched (decision D19);
after `ENABLE INTERRUPT` with a request latched the next cycle is the entry. -/
def Obligations.InterruptControlSetsOnlyTheEnable : Prop :=
  DecodesB1 0x28#6 ungated false .disableInterrupt ∧ DecodesB1 0x28#6 ungated true .enableInterrupt ∧
  ∀ (s : State) (i : Instr) (b : Bool), (i, b) ∈ [(Instr.disableInterrupt, false), (.enableInterrupt, true)] →
    ∃ t, exec i s = .next t ∧ t.ie = b ∧ t.irq = s.irq ∧ PcAdvanced s t ∧ RegsKept s t ∧ FlagsKept s t ∧
      StackKept s t ∧ ScratchKept s t ∧ PortsKept s t ∧ ParamsKept s t ∧
      (b = true → s.irq = true → step t = .next t.interruptEntry)

/-- R782, R784, R785: `RETURNI` popping an interrupt-tagged frame restores the address as it is, the flags and the bank, and sets
`IE` from its bit; that the bit is bit 0 of the word is general knowledge, say R303 and G2. -/
def Obligations.ReturniRestoresTheInterruptContext : Prop :=
  DecodesB1 0x29#6 ungated false .returniDisable ∧ DecodesB1 0x29#6 ungated true .returniEnable ∧
  ∀ (s : State) (rest : List Frame) (f : Frame) (p : Snapshot) (i : Instr) (b : Bool),
    (i, b) ∈ [(Instr.returniDisable, false), (.returniEnable, true)] →
    s.cfg.hasBank = true → s.stk = rest ++ [f] → f.snap = some p → p.isInt = true →
    ∃ t, exec i s = .next t ∧ t.pc = f.addr ∧ t.z = p.z ∧ t.c = p.c ∧ t.bank = p.bank ∧ t.ie = b ∧ t.irq = s.irq ∧
      t.stk = rest ∧ RegFilesKept s t ∧ ScratchKept s t ∧ PortsKept s t ∧ ParamsKept s t

/-- R783 (decisions D17, D18): in the base variant, and in default mode on a frame a `CALL` pushed, `RETURNI` takes the address as it
is and sets `IE`, and restores nothing; in strict mode such a frame of the extended variant is the final fault. -/
def Obligations.ReturniOnOtherFramesKeepsTheFlags : Prop :=
  ∀ (s : State) (rest : List Frame) (f : Frame) (i : Instr) (b : Bool),
    (i, b) ∈ [(Instr.returniDisable, false), (.returniEnable, true)] → s.stk = rest ++ [f] →
    (s.cfg.hasBank = false ∨ (f.isInt = false ∧ s.cfg.strictDecode = false) →
      ∃ t, exec i s = .next t ∧ t.pc = f.addr ∧ t.ie = b ∧ t.irq = s.irq ∧ t.stk = rest ∧ RegsKept s t ∧
        FlagsKept s t ∧ ScratchKept s t ∧ PortsKept s t ∧ ParamsKept s t) ∧
    (s.cfg.hasBank = true ∧ f.isInt = false ∧ s.cfg.strictDecode = true → exec i s = .fault (.frameMismatch f))

/-- After an interrupt entry of the extended variant, whatever the handler does, `RETURNI ENABLE` at a moment when the stack is
again the one the entry left goes back to the preempted address with the flags and the bank of before the interrupt
(95_test_vectors.md E10; R811, R783). -/
def Obligations.ReturniUndoesTheInterruptEntry : Prop :=
  ∀ s t u : State, s.cfg.hasBank = true → s.ie = true → s.irq = true → s.stk.length < s.cfg.stackDepth →
    step s = .next t → u.cfg = t.cfg → u.stk = t.stk →
    ∃ v, exec .returniEnable u = .next v ∧ v.pc = s.pc ∧ v.z = s.z ∧ v.c = s.c ∧ v.bank = s.bank ∧ v.stk = s.stk ∧
      v.ie = true

/-! ### The whole machine -/

/-- The invariant holds after reset. -/
def Obligations.ResetMeetsTheInvariant : Prop := State.reset.Inv

/-- Every step keeps the invariant: memories stay canonical and in their spaces, the stack in its depth with frames of the
variant's shape, `BANK` 0 in the base variant, the router tables those of the attached devices. -/
def Obligations.StepKeepsTheInvariant : Prop :=
  ∀ s t : State, s.Inv → step s = .next t → t.Inv

/-- Every host action the core accepts keeps the invariant (R823, R824). Three of its parts rest on the model's own refusals: the
devices' names stay different by log entry 16, and the base variant's bank and frames keep their shape by log entry 17. -/
def Obligations.HostActionsKeepTheInvariant : Prop :=
  ∀ (s t : State) (act : HostAction), s.Inv → s.hostAct act = .done t → t.Inv

/-- R101: no step writes the configuration, program memory, the devices or the router tables. -/
def Obligations.StepNeverWritesTheParameters : Prop :=
  ∀ s t : State, step s = .next t → ParamsKept s t

/-- A step always completes, but for the two faults of strict mode (R800; R806, the spec's decision D3; R807, its decision D17): no
word, operand, address or stack stops the machine in default mode. -/
def Obligations.OnlyStrictModeFaults : Prop :=
  ∀ s : State, (∃ t, step s = .next t) ∨
    (s.cfg.strictDecode = true ∧
      ((∃ w, decode s.cfg (s.pmRead s.pc) = .unassigned w ∧ step s = .fault (.unassignedOpcode w s.pc)) ∨
        (s.cfg.hasBank = true ∧ ∃ f, f.isInt = false ∧ s.stk.getLast? = some f ∧ step s = .fault (.frameMismatch f))))

/-- R110, R111: no instruction reads `IE` or `IRQ`: run from two states that differ only in them, an instruction answers states that
differ only in them. -/
def Obligations.InstructionsNeverReadTheInterruptBits : Prop :=
  ∀ (i : Instr) (s : State) (e r : Bool),
    maskResult (exec i ((s.setIe e).setIrq r)) = maskResult (exec i s)

/-- R111: a step never sets the request latch; it keeps it, or clears it by an interrupt entry or a stack-fault reset. -/
def Obligations.StepNeverRaisesARequest : Prop :=
  ∀ s t : State, step s = .next t →
    t.irq = s.irq ∨ (t.irq = false ∧ ((s.ie = true ∧ s.irq = true) ∨ ∃ k, ResetByStackFault s t k s.pc))

/-- R140 (decision D27): no step clears the log; a step appends at most one entry. -/
def Obligations.StepOnlyAppendsToTheLog : Prop :=
  ∀ s t : State, step s = .next t → t.log = s.log ∨ ∃ e, t.log = s.log ++ [e]

/-- R104: no instruction but `STAR` reaches the inactive bank. None writes it: only the reset of a stack fault clears it. None reads
it: run on the same state with other registers `f` in that bank, an instruction answers the same with `f` there, or, after the
reset of a stack fault, the very same. -/
def Obligations.OnlyStarReachesTheInactiveBank : Prop :=
  ∀ (s : State) (i : Instr), (∀ x y, i ≠ .starReg x y) → (∀ x kk, i ≠ .starImm x kk) →
    (∀ t, exec i s = .next t →
      (∀ k q, k ≠ s.activeBank → t.reg k q = s.reg k q) ∨ ∃ k, ResetByStackFault s t k s.pc) ∧
    (∀ k f, k ≠ s.activeBank →
      (∀ t, exec i s = .next t → exec i (s.putBank k f) = .next (t.putBank k f) ∨
        (exec i (s.putBank k f) = .next t ∧ ∃ e, ResetByStackFault s t e s.pc)) ∧
      (∀ e, exec i s = .fault e → exec i (s.putBank k f) = .fault e))

/-- R831 (decision D41): a step from a halted self-jump changes nothing at all. -/
def Obligations.HaltedSelfJumpStaysPut : Prop :=
  ∀ s : State, s.halted = true → step s = .next s

/-! ### The router and the host (20_memory.md, 60_exceptions.md) -/

/-- R243: at every address, the device registered last is bound if one of its tokens covers the address in that direction, by the
last such token, with index `address - low + offset`; otherwise what the earlier devices bound stands. -/
def Obligations.LastDeviceAndTokenWin : Prop :=
  ∀ (d : Dir) (devices : List Device) (dev : Device) (a : Nat),
    Sparse.lookup (buildTable d (devices ++ [dev])) a =
      match deviceRoute d dev a with
      | some r => some r
      | none => Sparse.lookup (buildTable d devices) a

/-- R246: the source's worked example, a device with spec "w1,r2-5:10"; dispatching to address 6 gives the default 0. -/
def Obligations.RouterWorkedExample : Prop :=
  ∀ dev : Device, dev.spec = ['w', '1', ',', 'r', '2', '-', '5', ':', '1', '0'] → dev.capability = .both →
    buildTable .write [dev] = [(1, { device := dev.id, index := 0 })] ∧
    buildTable .read [dev] =
      [(2, { device := dev.id, index := 10 }), (3, { device := dev.id, index := 11 }),
        (4, { device := dev.id, index := 12 }), (5, { device := dev.id, index := 13 })] ∧
    ∀ (s : State) (x : Reg), s.rt = buildTable .read [dev] → ∃ t, exec (.inputImm x 0x06#8) s = .next t ∧ t.x x = 0x00#8

/-- A snapshot saved and loaded again into a core of the same configuration gives back every architectural field (R823, R105); the
log, the draws, and the parameters are those of the core it is loaded into, but program memory is the saved one where the snapshot
carries it. R823's list has no program memory and R202 has snapshot load change it: that a snapshot may carry it or not is log
entry 14. -/
def Obligations.SnapshotLoadGivesBackTheState : Prop :=
  ∀ s u : State, s.Inv → u.cfg = s.cfg →
    ∃ t, t = { u with
        pc := s.pc, regsA := s.regsA, regsB := if s.cfg.hasBank then s.regsB else u.regsB, bank := s.bank, sp := s.sp
        z := s.z, c := s.c, ie := s.ie, irq := s.irq, stk := s.stk } ∧
      u.hostAct (.loadSnapshot s.save) = .done t ∧
      u.hostAct (.loadSnapshot s.saveWithProgram) = .done { t with pm := s.pm }

/-- R823 (decision D34), R244 (decision D21): a `setState`, a snapshot load and a program load are refused exactly when a part of
what they give does not fit (`FieldValue.ill`, `SavedState.ill`, `illWords`; the base variant's part is log entry 17); an attach
and an edit are refused when the grammar refuses the spec, and else only for the device's name (log entries 16 and 18). -/
def Obligations.IllFormedHostActionsAreRefused : Prop :=
  ∀ s : State,
    (∀ f : FieldValue, (f.ill s.cfg → s.hostAct (.setState f) = .refused .illFormedValue) ∧
      (¬f.ill s.cfg → ∃ t, s.hostAct (.setState f) = .done t)) ∧
    (∀ v : SavedState, (v.ill s.cfg → s.hostAct (.loadSnapshot v) = .refused .illFormedSnapshot) ∧
      (¬v.ill s.cfg → ∃ t, s.hostAct (.loadSnapshot v) = .done t)) ∧
    (∀ ws, (illWords ws → s.hostAct (.loadProgram ws) = .refused .illFormedProgram) ∧
      (¬illWords ws → ∃ t, s.hostAct (.loadProgram ws) = .done t)) ∧
    (∀ d : Device, (∃ t, s.hostAct (.registerDevice d) = .done t) ↔
      (parseSpec d.spec ≠ none ∧ ∀ e ∈ s.devices, e.id ≠ d.id)) ∧
    (∀ id spec, (∃ t, s.hostAct (.editSpec id spec) = .done t) ↔ (parseSpec spec ≠ none ∧ ∃ e ∈ s.devices, e.id = id))
end

