-- ==== Sys2Proof/Laws/Decode.lean ====
section
/-!
SUPPORT. The fields of the words the encoder makes, as numbers.
-/
namespace Sys2Proof

theorem append_toNat {v w : Nat} (a : BitVec v) (b : BitVec w) : (a ++ b).toNat = a.toNat * 2 ^ w + b.toNat := by
  rw [BitVec.toNat_append, ← Nat.shiftLeft_add_eq_or_of_lt b.isLt, Nat.shiftLeft_eq]

/-- A field of a word as a number. -/
theorem extract_toNat (w : InsnWord) (lo n : Nat) : (w.extractLsb' lo n).toNat = w.toNat / 2 ^ lo % 2 ^ n := by
  simp [Nat.shiftRight_eq_div_pow]

theorem wordRR_toNat (op : BitVec 6) (x y : Reg) :
    (wordRR op x y).toNat = op.toNat * 4096 + x.toNat * 256 + y.toNat * 16 := by
  change BitVec.toNat (w := 6 + 4 + 4 + 4) (op ++ x ++ y ++ 0#4) = _
  simp only [append_toNat]; simp; omega

theorem wordRK_toNat (op : BitVec 6) (x : Reg) (kk : Byte) :
    (wordRK op x kk).toNat = op.toNat * 4096 + x.toNat * 256 + kk.toNat := by
  change BitVec.toNat (w := 6 + 4 + 8) (op ++ x ++ kk) = _
  simp only [append_toNat]; omega

theorem wordSH_toNat (x : Reg) (code : BitVec 4) :
    (wordSH x code).toNat = 20 * 4096 + x.toNat * 256 + code.toNat := by
  change BitVec.toNat (w := 6 + 4 + 4 + 4) (0b010100#6 ++ x ++ 0#4 ++ code) = _
  simp only [append_toNat]; simp; omega

theorem wordJA_toNat (op : BitVec 6) (aaa : Addr) : (wordJA op aaa).toNat = op.toNat * 4096 + aaa.toNat := by
  change BitVec.toNat (w := 6 + 12) (op ++ aaa) = _
  simp only [append_toNat] <;> omega

theorem wordRT_toNat (op : BitVec 6) : (wordRT op).toNat = op.toNat * 4096 := by
  change BitVec.toNat (w := 6 + 12) (op ++ 0#12) = _
  simp only [append_toNat]; simp

theorem wordB1_toNat (op : BitVec 6) (b : Bool) : (wordB1 op b).toNat = op.toNat * 4096 + b.toNat := by
  change BitVec.toNat (w := 6 + 11 + 1) (op ++ 0#11 ++ BitVec.ofBool b) = _
  simp only [append_toNat]; simp; omega

theorem wordKP_toNat (op : BitVec 6) (kx : Byte) (p : BitVec 4) :
    (wordKP op kx p).toNat = op.toNat * 4096 + kx.toNat * 16 + p.toNat := by
  change BitVec.toNat (w := 6 + 8 + 4) (op ++ kx ++ p) = _
  simp only [append_toNat]; omega

/-! The fields read back. -/

variable (op : BitVec 6) (x y : Reg) (kk : Byte) (code p : BitVec 4) (aaa : Addr) (b : Bool)

@[simp] theorem fieldOp_wordRR : fieldOp (wordRR op x y) = op := by
  apply BitVec.eq_of_toNat_eq; simp only [fieldOp, extract_toNat, wordRR_toNat]; omega
@[simp] theorem fieldX_wordRR : fieldX (wordRR op x y) = x := by
  apply BitVec.eq_of_toNat_eq; simp only [fieldX, extract_toNat, wordRR_toNat]; omega
@[simp] theorem fieldY_wordRR : fieldY (wordRR op x y) = y := by
  apply BitVec.eq_of_toNat_eq; simp only [fieldY, extract_toNat, wordRR_toNat]; omega

@[simp] theorem fieldOp_wordRK : fieldOp (wordRK op x kk) = op := by
  apply BitVec.eq_of_toNat_eq; simp only [fieldOp, extract_toNat, wordRK_toNat]; omega
@[simp] theorem fieldX_wordRK : fieldX (wordRK op x kk) = x := by
  apply BitVec.eq_of_toNat_eq; simp only [fieldX, extract_toNat, wordRK_toNat]; omega
@[simp] theorem fieldKK_wordRK : fieldKK (wordRK op x kk) = kk := by
  apply BitVec.eq_of_toNat_eq; simp only [fieldKK, extract_toNat, wordRK_toNat]; omega

@[simp] theorem fieldOp_wordSH : fieldOp (wordSH x code) = 0x14#6 := by
  apply BitVec.eq_of_toNat_eq; simp only [fieldOp, extract_toNat, wordSH_toNat]; simp; omega
@[simp] theorem fieldX_wordSH : fieldX (wordSH x code) = x := by
  apply BitVec.eq_of_toNat_eq; simp only [fieldX, extract_toNat, wordSH_toNat]; omega
@[simp] theorem fieldCode_wordSH : fieldCode (wordSH x code) = code := by
  apply BitVec.eq_of_toNat_eq; simp only [fieldCode, extract_toNat, wordSH_toNat]; omega
/-- A shift's own word never holds the `HWBUILD` sentinel. -/
theorem fieldKK_wordSH_ne : fieldKK (wordSH x code) ≠ 0x80#8 := by
  intro h
  have := congrArg BitVec.toNat h
  simp only [fieldKK, extract_toNat, wordSH_toNat] at this; simp at this; omega

@[simp] theorem fieldOp_wordJA : fieldOp (wordJA op aaa) = op := by
  apply BitVec.eq_of_toNat_eq; simp only [fieldOp, extract_toNat, wordJA_toNat]; omega
@[simp] theorem fieldAAA_wordJA : fieldAAA (wordJA op aaa) = aaa := by
  apply BitVec.eq_of_toNat_eq; simp only [fieldAAA, extract_toNat, wordJA_toNat]; omega

@[simp] theorem fieldOp_wordRT : fieldOp (wordRT op) = op := by
  apply BitVec.eq_of_toNat_eq; simp only [fieldOp, extract_toNat, wordRT_toNat]; omega

@[simp] theorem fieldOp_wordB1 : fieldOp (wordB1 op b) = op := by
  have := b.toNat_le
  apply BitVec.eq_of_toNat_eq; simp only [fieldOp, extract_toNat, wordB1_toNat]; omega
@[simp] theorem fieldB_wordB1 : fieldB (wordB1 op b) = b := by
  have h : (op.toNat * 4096 + b.toNat) % 2 = b.toNat := by have := b.toNat_le; omega
  simp only [fieldB, BitVec.getLsbD, wordB1_toNat, Nat.testBit_zero, h]
  cases b <;> rfl

@[simp] theorem fieldOp_wordKP : fieldOp (wordKP op kk p) = op := by
  apply BitVec.eq_of_toNat_eq; simp only [fieldOp, extract_toNat, wordKP_toNat]; omega
@[simp] theorem fieldKX_wordKP : fieldKX (wordKP op kk p) = kk := by
  apply BitVec.eq_of_toNat_eq; simp only [fieldKX, extract_toNat, wordKP_toNat]; omega
@[simp] theorem fieldP_wordKP : fieldP (wordKP op kk p) = p := by
  apply BitVec.eq_of_toNat_eq; simp only [fieldP, extract_toNat, wordKP_toNat]; omega

end Sys2Proof
end

