-- ==== Sys2Proof/Laws/Memory.lean ====
section
/-!
SUPPORT. Laws of sparse tables and memories: reading after writing, and the canonical form kept by every operation.
-/
namespace Sys2Proof.Machine

variable {α : Type} {w : Nat}

theorem Sparse.lookup_insert (m : List (Nat × α)) (k j : Nat) (v : α) :
    Sparse.lookup (Sparse.insert m k v) j = if k = j then some v else Sparse.lookup m j := by
  induction m with
  | nil => simp [Sparse.insert, Sparse.lookup]
  | cons e rest ih =>
    obtain ⟨i, u⟩ := e
    simp only [Sparse.insert]
    split
    · simp [Sparse.lookup]
    · split
      · next h => subst h; by_cases hj : i = j <;> simp [Sparse.lookup, hj]
      · next h =>
        by_cases hj : i = j
        · subst hj; simp [Sparse.lookup, Ne.symm h]
        · simp [Sparse.lookup, hj, ih]

theorem Sparse.lookup_erase (m : List (Nat × α)) (k j : Nat) :
    Sparse.lookup (Sparse.erase m k) j = if k = j then none else Sparse.lookup m j := by
  induction m with
  | nil => simp [Sparse.erase, Sparse.lookup]
  | cons e rest ih =>
    obtain ⟨i, u⟩ := e
    simp only [Sparse.erase, List.filter_cons] at ih ⊢
    by_cases hi : i = k
    · subst hi
      by_cases hj : i = j
      · subst hj; simpa using ih
      · simpa [Sparse.lookup, hj] using ih
    · by_cases hj : i = j
      · subst hj; simp [Sparse.lookup, hi, Ne.symm hi]
      · simpa [Sparse.lookup, hi, hj] using ih

/-- The keys of an insertion are the old keys and the new one. -/
theorem Sparse.mem_insert {m : List (Nat × α)} {k : Nat} {v : α} {e : Nat × α} (h : e ∈ Sparse.insert m k v) :
    e = (k, v) ∨ e ∈ m := by
  induction m with
  | nil => simpa [Sparse.insert] using h
  | cons f rest ih =>
    obtain ⟨i, u⟩ := f
    simp only [Sparse.insert] at h
    split at h
    · simpa using h
    · split at h
      · rcases List.mem_cons.1 h with h | h
        · exact .inl h
        · exact .inr (List.mem_cons_of_mem _ h)
      · rcases List.mem_cons.1 h with h | h
        · exact .inr (h ▸ List.mem_cons_self)
        · exact (ih h).imp id (List.mem_cons_of_mem _)

theorem Sparse.insert_rising {m : List (Nat × α)} (k : Nat) (v : α) (h : Sparse.rising m) :
    Sparse.rising (Sparse.insert m k v) := by
  induction m with
  | nil => simp [Sparse.insert, Sparse.rising]
  | cons f rest ih =>
    obtain ⟨i, u⟩ := f
    obtain ⟨hi, hr⟩ := List.pairwise_cons.1 h
    simp only [Sparse.insert]
    split
    · next hk =>
      refine List.pairwise_cons.2 ⟨fun e he => ?_, h⟩
      rcases List.mem_cons.1 he with he | he
      · subst he; exact hk
      · exact Nat.lt_trans hk (hi e he)
    · split
      · next hik => subst hik; exact List.pairwise_cons.2 ⟨hi, hr⟩
      · refine List.pairwise_cons.2 ⟨fun e he => ?_, ih hr⟩
        rcases Sparse.mem_insert he with he | he
        · subst he; show i < k; omega
        · exact hi e he

theorem Sparse.erase_rising {m : List (Nat × α)} (k : Nat) (h : Sparse.rising m) : Sparse.rising (Sparse.erase m k) :=
  List.Pairwise.filter _ h

theorem Sparse.insert_below {m : List (Nat × α)} {n k : Nat} (v : α) (hk : k < n) (h : Sparse.below n m) :
    Sparse.below n (Sparse.insert m k v) := by
  intro e he
  rcases Sparse.mem_insert he with he | he
  · subst he; exact hk
  · exact h e he

theorem Sparse.erase_below {m : List (Nat × α)} {n : Nat} (k : Nat) (h : Sparse.below n m) :
    Sparse.below n (Sparse.erase m k) :=
  fun e he => h e (List.mem_filter.1 he).1

/-- A listed entry of a rising table is the one its key looks up. -/
theorem Sparse.lookup_of_mem {m : List (Nat × α)} (h : Sparse.rising m) {k : Nat} {v : α} (hm : (k, v) ∈ m) :
    Sparse.lookup m k = some v := by
  induction m with
  | nil => simp at hm
  | cons f rest ih =>
    obtain ⟨i, u⟩ := f
    obtain ⟨hi, hr⟩ := List.pairwise_cons.1 h
    rcases List.mem_cons.1 hm with hm | hm
    · cases hm; simp [Sparse.lookup]
    · have hlt : i < k := hi _ hm
      simp [Sparse.lookup, Nat.ne_of_lt hlt, ih hr hm]

/-- What a table looks up, it lists. -/
theorem Sparse.mem_of_lookup {m : List (Nat × α)} {k : Nat} {v : α} (h : Sparse.lookup m k = some v) : (k, v) ∈ m := by
  induction m with
  | nil => simp [Sparse.lookup] at h
  | cons f rest ih =>
    obtain ⟨i, u⟩ := f
    by_cases hi : i = k
    · simp [Sparse.lookup, hi] at h; simp [hi, h]
    · simp [Sparse.lookup, hi] at h; exact List.mem_cons_of_mem _ (ih h)

/-- Two rising tables that look up the same are the same list: the canonical form is canonical. -/
theorem Sparse.ext_lookup {m n : List (Nat × α)} (hm : Sparse.rising m) (hn : Sparse.rising n)
    (h : ∀ k, Sparse.lookup m k = Sparse.lookup n k) : m = n := by
  induction m generalizing n with
  | nil =>
    cases n with
    | nil => rfl
    | cons f rest => simpa [Sparse.lookup] using h f.1
  | cons e rest ih =>
    obtain ⟨i, u⟩ := e
    cases n with
    | nil => simpa [Sparse.lookup] using h i
    | cons f rest' =>
      obtain ⟨j, v⟩ := f
      obtain ⟨hi, hr⟩ := List.pairwise_cons.1 hm
      obtain ⟨hj, hr'⟩ := List.pairwise_cons.1 hn
      have notBelow : ∀ {l : List (Nat × α)} {a b : Nat}, (∀ e ∈ l, a < e.1) → b ≤ a → Sparse.lookup l b = none := by
        intro l a b hl hab
        cases hb : Sparse.lookup l b with
        | none => rfl
        | some x => exact absurd (hl _ (Sparse.mem_of_lookup hb)) (Nat.not_lt.2 hab)
      have hij : i = j := by
        rcases Nat.lt_trichotomy i j with hlt | heq | hgt
        · have := h i
          simp [Sparse.lookup, Nat.ne_of_gt hlt, notBelow hj (Nat.le_of_lt hlt)] at this
        · exact heq
        · have := h j
          simp [Sparse.lookup, Nat.ne_of_gt hgt, notBelow hi (Nat.le_of_lt hgt)] at this
      subst hij
      have huv : u = v := by simpa [Sparse.lookup] using h i
      subst huv
      congr 1
      refine ih hr hr' fun k => ?_
      by_cases hk : i = k
      · subst hk; rw [notBelow hi (Nat.le_refl _), notBelow hj (Nat.le_refl _)]
      · simpa [Sparse.lookup, hk] using h k

/-- Setting an entry: the key has it, every other key as before. -/
theorem Sparse.lookup_put (m : List (Nat × α)) (k j : Nat) (v : Option α) :
    Sparse.lookup (Sparse.put m k v) j = if k = j then v else Sparse.lookup m j := by
  cases v with
  | none => exact Sparse.lookup_erase m k j
  | some u => exact Sparse.lookup_insert m k j u

theorem Sparse.put_rising {m : List (Nat × α)} (k : Nat) (v : Option α) (h : Sparse.rising m) :
    Sparse.rising (Sparse.put m k v) := by
  cases v with
  | none => exact Sparse.erase_rising k h
  | some u => exact Sparse.insert_rising k u h

theorem Sparse.put_below {m : List (Nat × α)} {n k : Nat} (v : Option α) (hk : k < n) (h : Sparse.below n m) :
    Sparse.below n (Sparse.put m k v) := by
  cases v with
  | none => exact Sparse.erase_below k h
  | some u => exact Sparse.insert_below u hk h

/-! Memories. -/

/-- Reading after writing: the byte written at the address, any other address as before. -/
theorem Memory.read_write (m : List (Nat × BitVec w)) (k j : Nat) (v : BitVec w) :
    Memory.read (Memory.write m k v) j = if k = j then v else Memory.read m j := by
  unfold Memory.write Memory.read
  split
  · next hv => rw [Sparse.lookup_erase]; split <;> simp [hv]
  · rw [Sparse.lookup_insert]; split <;> simp

@[simp] theorem Memory.read_nil (k : Nat) : Memory.read ([] : List (Nat × BitVec w)) k = 0#w := rfl

theorem Memory.write_wf {m : List (Nat × BitVec w)} (k : Nat) (v : BitVec w) (h : Memory.wf m) :
    Memory.wf (Memory.write m k v) := by
  unfold Memory.write
  split
  · exact ⟨Sparse.erase_rising k h.1, fun e he => h.2 e (List.mem_filter.1 he).1⟩
  · next hv =>
    refine ⟨Sparse.insert_rising k v h.1, fun e he => ?_⟩
    rcases Sparse.mem_insert he with he | he
    · subst he; exact hv
    · exact h.2 e he

theorem Memory.write_below {m : List (Nat × BitVec w)} {n k : Nat} (v : BitVec w) (hk : k < n)
    (h : Sparse.below n m) : Sparse.below n (Memory.write m k v) := by
  unfold Memory.write
  split
  · exact Sparse.erase_below k h
  · exact Sparse.insert_below v hk h

theorem Memory.nil_wf : Memory.wf ([] : List (Nat × BitVec w)) := ⟨List.Pairwise.nil, by simp⟩

/-- Two canonical memories that read the same everywhere are the same list. -/
theorem Memory.ext_read {m n : List (Nat × BitVec w)} (hm : Memory.wf m) (hn : Memory.wf n)
    (h : ∀ k, Memory.read m k = Memory.read n k) : m = n := by
  refine Sparse.ext_lookup hm.1 hn.1 fun k => ?_
  have hk := h k
  have listed : ∀ {l : List (Nat × BitVec w)} {v : BitVec w}, Memory.wf l → Sparse.lookup l k = some v → v ≠ 0#w :=
    fun hl hv => hl.2 _ (Sparse.mem_of_lookup hv)
  unfold Memory.read at hk
  cases h1 : Sparse.lookup m k with
  | none =>
    cases h2 : Sparse.lookup n k with
    | none => rfl
    | some v => rw [h1, h2] at hk; exact absurd hk.symm (listed hn h2)
  | some u =>
    cases h2 : Sparse.lookup n k with
    | none => rw [h1, h2] at hk; exact absurd hk (listed hm h1)
    | some v => rw [h1, h2] at hk; exact congrArg some hk

end Sys2Proof.Machine
end

