-- ==== Sys2Proof/Laws/State.lean ====
section
/-!
SUPPORT. One lemma per field of the state per named update: what the update leaves in the field.
-/
namespace Sys2Proof.Machine

variable (s : State)

/-! `State.setX` -/

@[simp] theorem State.setX_cfg (r : Reg) (v : Byte) : (s.setX r v).cfg = s.cfg := rfl
@[simp] theorem State.setX_pm (r : Reg) (v : Byte) : (s.setX r v).pm = s.pm := rfl
@[simp] theorem State.setX_devices (r : Reg) (v : Byte) : (s.setX r v).devices = s.devices := rfl
@[simp] theorem State.setX_rt (r : Reg) (v : Byte) : (s.setX r v).rt = s.rt := rfl
@[simp] theorem State.setX_wt (r : Reg) (v : Byte) : (s.setX r v).wt = s.wt := rfl
@[simp] theorem State.setX_pc (r : Reg) (v : Byte) : (s.setX r v).pc = s.pc := rfl
@[simp] theorem State.setX_regsA (r : Reg) (v : Byte) : (s.setX r v).regsA = (if s.activeBank = .a then RegFile.put s.regsA r v else s.regsA) := rfl
@[simp] theorem State.setX_regsB (r : Reg) (v : Byte) : (s.setX r v).regsB = (if s.activeBank = .a then s.regsB else RegFile.put s.regsB r v) := rfl
@[simp] theorem State.setX_bank (r : Reg) (v : Byte) : (s.setX r v).bank = s.bank := rfl
@[simp] theorem State.setX_sp (r : Reg) (v : Byte) : (s.setX r v).sp = s.sp := rfl
@[simp] theorem State.setX_z (r : Reg) (v : Byte) : (s.setX r v).z = s.z := rfl
@[simp] theorem State.setX_c (r : Reg) (v : Byte) : (s.setX r v).c = s.c := rfl
@[simp] theorem State.setX_ie (r : Reg) (v : Byte) : (s.setX r v).ie = s.ie := rfl
@[simp] theorem State.setX_irq (r : Reg) (v : Byte) : (s.setX r v).irq = s.irq := rfl
@[simp] theorem State.setX_stk (r : Reg) (v : Byte) : (s.setX r v).stk = s.stk := rfl
@[simp] theorem State.setX_log (r : Reg) (v : Byte) : (s.setX r v).log = s.log := rfl
@[simp] theorem State.setX_draws (r : Reg) (v : Byte) : (s.setX r v).draws = s.draws := rfl

/-! `State.setInactive` -/

@[simp] theorem State.setInactive_cfg (r : Reg) (v : Byte) : (s.setInactive r v).cfg = s.cfg := rfl
@[simp] theorem State.setInactive_pm (r : Reg) (v : Byte) : (s.setInactive r v).pm = s.pm := rfl
@[simp] theorem State.setInactive_devices (r : Reg) (v : Byte) : (s.setInactive r v).devices = s.devices := rfl
@[simp] theorem State.setInactive_rt (r : Reg) (v : Byte) : (s.setInactive r v).rt = s.rt := rfl
@[simp] theorem State.setInactive_wt (r : Reg) (v : Byte) : (s.setInactive r v).wt = s.wt := rfl
@[simp] theorem State.setInactive_pc (r : Reg) (v : Byte) : (s.setInactive r v).pc = s.pc := rfl
@[simp] theorem State.setInactive_regsA (r : Reg) (v : Byte) : (s.setInactive r v).regsA = (if s.activeBank = .b then RegFile.put s.regsA r v else s.regsA) := rfl
@[simp] theorem State.setInactive_regsB (r : Reg) (v : Byte) : (s.setInactive r v).regsB = (if s.cfg.hasBank && s.bank = .a then RegFile.put s.regsB r v else s.regsB) := rfl
@[simp] theorem State.setInactive_bank (r : Reg) (v : Byte) : (s.setInactive r v).bank = s.bank := rfl
@[simp] theorem State.setInactive_sp (r : Reg) (v : Byte) : (s.setInactive r v).sp = s.sp := rfl
@[simp] theorem State.setInactive_z (r : Reg) (v : Byte) : (s.setInactive r v).z = s.z := rfl
@[simp] theorem State.setInactive_c (r : Reg) (v : Byte) : (s.setInactive r v).c = s.c := rfl
@[simp] theorem State.setInactive_ie (r : Reg) (v : Byte) : (s.setInactive r v).ie = s.ie := rfl
@[simp] theorem State.setInactive_irq (r : Reg) (v : Byte) : (s.setInactive r v).irq = s.irq := rfl
@[simp] theorem State.setInactive_stk (r : Reg) (v : Byte) : (s.setInactive r v).stk = s.stk := rfl
@[simp] theorem State.setInactive_log (r : Reg) (v : Byte) : (s.setInactive r v).log = s.log := rfl
@[simp] theorem State.setInactive_draws (r : Reg) (v : Byte) : (s.setInactive r v).draws = s.draws := rfl

/-! `State.setBank` -/

@[simp] theorem State.setBank_cfg (k : Bank) : (s.setBank k).cfg = s.cfg := rfl
@[simp] theorem State.setBank_pm (k : Bank) : (s.setBank k).pm = s.pm := rfl
@[simp] theorem State.setBank_devices (k : Bank) : (s.setBank k).devices = s.devices := rfl
@[simp] theorem State.setBank_rt (k : Bank) : (s.setBank k).rt = s.rt := rfl
@[simp] theorem State.setBank_wt (k : Bank) : (s.setBank k).wt = s.wt := rfl
@[simp] theorem State.setBank_pc (k : Bank) : (s.setBank k).pc = s.pc := rfl
@[simp] theorem State.setBank_regsA (k : Bank) : (s.setBank k).regsA = s.regsA := rfl
@[simp] theorem State.setBank_regsB (k : Bank) : (s.setBank k).regsB = s.regsB := rfl
@[simp] theorem State.setBank_bank (k : Bank) : (s.setBank k).bank = (if s.cfg.hasBank then k else .a) := rfl
@[simp] theorem State.setBank_sp (k : Bank) : (s.setBank k).sp = s.sp := rfl
@[simp] theorem State.setBank_z (k : Bank) : (s.setBank k).z = s.z := rfl
@[simp] theorem State.setBank_c (k : Bank) : (s.setBank k).c = s.c := rfl
@[simp] theorem State.setBank_ie (k : Bank) : (s.setBank k).ie = s.ie := rfl
@[simp] theorem State.setBank_irq (k : Bank) : (s.setBank k).irq = s.irq := rfl
@[simp] theorem State.setBank_stk (k : Bank) : (s.setBank k).stk = s.stk := rfl
@[simp] theorem State.setBank_log (k : Bank) : (s.setBank k).log = s.log := rfl
@[simp] theorem State.setBank_draws (k : Bank) : (s.setBank k).draws = s.draws := rfl

/-! `State.setPc` -/

@[simp] theorem State.setPc_cfg (t : Addr) : (s.setPc t).cfg = s.cfg := rfl
@[simp] theorem State.setPc_pm (t : Addr) : (s.setPc t).pm = s.pm := rfl
@[simp] theorem State.setPc_devices (t : Addr) : (s.setPc t).devices = s.devices := rfl
@[simp] theorem State.setPc_rt (t : Addr) : (s.setPc t).rt = s.rt := rfl
@[simp] theorem State.setPc_wt (t : Addr) : (s.setPc t).wt = s.wt := rfl
@[simp] theorem State.setPc_pc (t : Addr) : (s.setPc t).pc = t := rfl
@[simp] theorem State.setPc_regsA (t : Addr) : (s.setPc t).regsA = s.regsA := rfl
@[simp] theorem State.setPc_regsB (t : Addr) : (s.setPc t).regsB = s.regsB := rfl
@[simp] theorem State.setPc_bank (t : Addr) : (s.setPc t).bank = s.bank := rfl
@[simp] theorem State.setPc_sp (t : Addr) : (s.setPc t).sp = s.sp := rfl
@[simp] theorem State.setPc_z (t : Addr) : (s.setPc t).z = s.z := rfl
@[simp] theorem State.setPc_c (t : Addr) : (s.setPc t).c = s.c := rfl
@[simp] theorem State.setPc_ie (t : Addr) : (s.setPc t).ie = s.ie := rfl
@[simp] theorem State.setPc_irq (t : Addr) : (s.setPc t).irq = s.irq := rfl
@[simp] theorem State.setPc_stk (t : Addr) : (s.setPc t).stk = s.stk := rfl
@[simp] theorem State.setPc_log (t : Addr) : (s.setPc t).log = s.log := rfl
@[simp] theorem State.setPc_draws (t : Addr) : (s.setPc t).draws = s.draws := rfl

/-! `State.advance` -/

@[simp] theorem State.advance_cfg : (s.advance).cfg = s.cfg := rfl
@[simp] theorem State.advance_pm : (s.advance).pm = s.pm := rfl
@[simp] theorem State.advance_devices : (s.advance).devices = s.devices := rfl
@[simp] theorem State.advance_rt : (s.advance).rt = s.rt := rfl
@[simp] theorem State.advance_wt : (s.advance).wt = s.wt := rfl
@[simp] theorem State.advance_pc : (s.advance).pc = s.pc + 1#12 := rfl
@[simp] theorem State.advance_regsA : (s.advance).regsA = s.regsA := rfl
@[simp] theorem State.advance_regsB : (s.advance).regsB = s.regsB := rfl
@[simp] theorem State.advance_bank : (s.advance).bank = s.bank := rfl
@[simp] theorem State.advance_sp : (s.advance).sp = s.sp := rfl
@[simp] theorem State.advance_z : (s.advance).z = s.z := rfl
@[simp] theorem State.advance_c : (s.advance).c = s.c := rfl
@[simp] theorem State.advance_ie : (s.advance).ie = s.ie := rfl
@[simp] theorem State.advance_irq : (s.advance).irq = s.irq := rfl
@[simp] theorem State.advance_stk : (s.advance).stk = s.stk := rfl
@[simp] theorem State.advance_log : (s.advance).log = s.log := rfl
@[simp] theorem State.advance_draws : (s.advance).draws = s.draws := rfl

/-! `State.setFlags` -/

@[simp] theorem State.setFlags_cfg (z c : Bool) : (s.setFlags z c).cfg = s.cfg := rfl
@[simp] theorem State.setFlags_pm (z c : Bool) : (s.setFlags z c).pm = s.pm := rfl
@[simp] theorem State.setFlags_devices (z c : Bool) : (s.setFlags z c).devices = s.devices := rfl
@[simp] theorem State.setFlags_rt (z c : Bool) : (s.setFlags z c).rt = s.rt := rfl
@[simp] theorem State.setFlags_wt (z c : Bool) : (s.setFlags z c).wt = s.wt := rfl
@[simp] theorem State.setFlags_pc (z c : Bool) : (s.setFlags z c).pc = s.pc := rfl
@[simp] theorem State.setFlags_regsA (z c : Bool) : (s.setFlags z c).regsA = s.regsA := rfl
@[simp] theorem State.setFlags_regsB (z c : Bool) : (s.setFlags z c).regsB = s.regsB := rfl
@[simp] theorem State.setFlags_bank (z c : Bool) : (s.setFlags z c).bank = s.bank := rfl
@[simp] theorem State.setFlags_sp (z c : Bool) : (s.setFlags z c).sp = s.sp := rfl
@[simp] theorem State.setFlags_z (z c : Bool) : (s.setFlags z c).z = z := rfl
@[simp] theorem State.setFlags_c (z c : Bool) : (s.setFlags z c).c = c := rfl
@[simp] theorem State.setFlags_ie (z c : Bool) : (s.setFlags z c).ie = s.ie := rfl
@[simp] theorem State.setFlags_irq (z c : Bool) : (s.setFlags z c).irq = s.irq := rfl
@[simp] theorem State.setFlags_stk (z c : Bool) : (s.setFlags z c).stk = s.stk := rfl
@[simp] theorem State.setFlags_log (z c : Bool) : (s.setFlags z c).log = s.log := rfl
@[simp] theorem State.setFlags_draws (z c : Bool) : (s.setFlags z c).draws = s.draws := rfl

/-! `State.setIe` -/

@[simp] theorem State.setIe_cfg (v : Bool) : (s.setIe v).cfg = s.cfg := rfl
@[simp] theorem State.setIe_pm (v : Bool) : (s.setIe v).pm = s.pm := rfl
@[simp] theorem State.setIe_devices (v : Bool) : (s.setIe v).devices = s.devices := rfl
@[simp] theorem State.setIe_rt (v : Bool) : (s.setIe v).rt = s.rt := rfl
@[simp] theorem State.setIe_wt (v : Bool) : (s.setIe v).wt = s.wt := rfl
@[simp] theorem State.setIe_pc (v : Bool) : (s.setIe v).pc = s.pc := rfl
@[simp] theorem State.setIe_regsA (v : Bool) : (s.setIe v).regsA = s.regsA := rfl
@[simp] theorem State.setIe_regsB (v : Bool) : (s.setIe v).regsB = s.regsB := rfl
@[simp] theorem State.setIe_bank (v : Bool) : (s.setIe v).bank = s.bank := rfl
@[simp] theorem State.setIe_sp (v : Bool) : (s.setIe v).sp = s.sp := rfl
@[simp] theorem State.setIe_z (v : Bool) : (s.setIe v).z = s.z := rfl
@[simp] theorem State.setIe_c (v : Bool) : (s.setIe v).c = s.c := rfl
@[simp] theorem State.setIe_ie (v : Bool) : (s.setIe v).ie = v := rfl
@[simp] theorem State.setIe_irq (v : Bool) : (s.setIe v).irq = s.irq := rfl
@[simp] theorem State.setIe_stk (v : Bool) : (s.setIe v).stk = s.stk := rfl
@[simp] theorem State.setIe_log (v : Bool) : (s.setIe v).log = s.log := rfl
@[simp] theorem State.setIe_draws (v : Bool) : (s.setIe v).draws = s.draws := rfl

/-! `State.setIrq` -/

@[simp] theorem State.setIrq_cfg (v : Bool) : (s.setIrq v).cfg = s.cfg := rfl
@[simp] theorem State.setIrq_pm (v : Bool) : (s.setIrq v).pm = s.pm := rfl
@[simp] theorem State.setIrq_devices (v : Bool) : (s.setIrq v).devices = s.devices := rfl
@[simp] theorem State.setIrq_rt (v : Bool) : (s.setIrq v).rt = s.rt := rfl
@[simp] theorem State.setIrq_wt (v : Bool) : (s.setIrq v).wt = s.wt := rfl
@[simp] theorem State.setIrq_pc (v : Bool) : (s.setIrq v).pc = s.pc := rfl
@[simp] theorem State.setIrq_regsA (v : Bool) : (s.setIrq v).regsA = s.regsA := rfl
@[simp] theorem State.setIrq_regsB (v : Bool) : (s.setIrq v).regsB = s.regsB := rfl
@[simp] theorem State.setIrq_bank (v : Bool) : (s.setIrq v).bank = s.bank := rfl
@[simp] theorem State.setIrq_sp (v : Bool) : (s.setIrq v).sp = s.sp := rfl
@[simp] theorem State.setIrq_z (v : Bool) : (s.setIrq v).z = s.z := rfl
@[simp] theorem State.setIrq_c (v : Bool) : (s.setIrq v).c = s.c := rfl
@[simp] theorem State.setIrq_ie (v : Bool) : (s.setIrq v).ie = s.ie := rfl
@[simp] theorem State.setIrq_irq (v : Bool) : (s.setIrq v).irq = v := rfl
@[simp] theorem State.setIrq_stk (v : Bool) : (s.setIrq v).stk = s.stk := rfl
@[simp] theorem State.setIrq_log (v : Bool) : (s.setIrq v).log = s.log := rfl
@[simp] theorem State.setIrq_draws (v : Bool) : (s.setIrq v).draws = s.draws := rfl

/-! `State.record` -/

@[simp] theorem State.record_cfg (e : Event) : (s.record e).cfg = s.cfg := rfl
@[simp] theorem State.record_pm (e : Event) : (s.record e).pm = s.pm := rfl
@[simp] theorem State.record_devices (e : Event) : (s.record e).devices = s.devices := rfl
@[simp] theorem State.record_rt (e : Event) : (s.record e).rt = s.rt := rfl
@[simp] theorem State.record_wt (e : Event) : (s.record e).wt = s.wt := rfl
@[simp] theorem State.record_pc (e : Event) : (s.record e).pc = s.pc := rfl
@[simp] theorem State.record_regsA (e : Event) : (s.record e).regsA = s.regsA := rfl
@[simp] theorem State.record_regsB (e : Event) : (s.record e).regsB = s.regsB := rfl
@[simp] theorem State.record_bank (e : Event) : (s.record e).bank = s.bank := rfl
@[simp] theorem State.record_sp (e : Event) : (s.record e).sp = s.sp := rfl
@[simp] theorem State.record_z (e : Event) : (s.record e).z = s.z := rfl
@[simp] theorem State.record_c (e : Event) : (s.record e).c = s.c := rfl
@[simp] theorem State.record_ie (e : Event) : (s.record e).ie = s.ie := rfl
@[simp] theorem State.record_irq (e : Event) : (s.record e).irq = s.irq := rfl
@[simp] theorem State.record_stk (e : Event) : (s.record e).stk = s.stk := rfl
@[simp] theorem State.record_log (e : Event) : (s.record e).log = s.log ++ [e] := rfl
@[simp] theorem State.record_draws (e : Event) : (s.record e).draws = s.draws := rfl

/-! `State.memWrite` -/

@[simp] theorem State.memWrite_cfg (a v : Byte) : (s.memWrite a v).cfg = s.cfg := rfl
@[simp] theorem State.memWrite_pm (a v : Byte) : (s.memWrite a v).pm = s.pm := rfl
@[simp] theorem State.memWrite_devices (a v : Byte) : (s.memWrite a v).devices = s.devices := rfl
@[simp] theorem State.memWrite_rt (a v : Byte) : (s.memWrite a v).rt = s.rt := rfl
@[simp] theorem State.memWrite_wt (a v : Byte) : (s.memWrite a v).wt = s.wt := rfl
@[simp] theorem State.memWrite_pc (a v : Byte) : (s.memWrite a v).pc = s.pc := rfl
@[simp] theorem State.memWrite_regsA (a v : Byte) : (s.memWrite a v).regsA = s.regsA := rfl
@[simp] theorem State.memWrite_regsB (a v : Byte) : (s.memWrite a v).regsB = s.regsB := rfl
@[simp] theorem State.memWrite_bank (a v : Byte) : (s.memWrite a v).bank = s.bank := rfl
@[simp] theorem State.memWrite_sp (a v : Byte) : (s.memWrite a v).sp = Memory.write s.sp (s.scratchIndex a) v := rfl
@[simp] theorem State.memWrite_z (a v : Byte) : (s.memWrite a v).z = s.z := rfl
@[simp] theorem State.memWrite_c (a v : Byte) : (s.memWrite a v).c = s.c := rfl
@[simp] theorem State.memWrite_ie (a v : Byte) : (s.memWrite a v).ie = s.ie := rfl
@[simp] theorem State.memWrite_irq (a v : Byte) : (s.memWrite a v).irq = s.irq := rfl
@[simp] theorem State.memWrite_stk (a v : Byte) : (s.memWrite a v).stk = s.stk := rfl
@[simp] theorem State.memWrite_log (a v : Byte) : (s.memWrite a v).log = s.log := rfl
@[simp] theorem State.memWrite_draws (a v : Byte) : (s.memWrite a v).draws = s.draws := rfl

/-! `State.setStk` -/

@[simp] theorem State.setStk_cfg (l : List Frame) : (s.setStk l).cfg = s.cfg := rfl
@[simp] theorem State.setStk_pm (l : List Frame) : (s.setStk l).pm = s.pm := rfl
@[simp] theorem State.setStk_devices (l : List Frame) : (s.setStk l).devices = s.devices := rfl
@[simp] theorem State.setStk_rt (l : List Frame) : (s.setStk l).rt = s.rt := rfl
@[simp] theorem State.setStk_wt (l : List Frame) : (s.setStk l).wt = s.wt := rfl
@[simp] theorem State.setStk_pc (l : List Frame) : (s.setStk l).pc = s.pc := rfl
@[simp] theorem State.setStk_regsA (l : List Frame) : (s.setStk l).regsA = s.regsA := rfl
@[simp] theorem State.setStk_regsB (l : List Frame) : (s.setStk l).regsB = s.regsB := rfl
@[simp] theorem State.setStk_bank (l : List Frame) : (s.setStk l).bank = s.bank := rfl
@[simp] theorem State.setStk_sp (l : List Frame) : (s.setStk l).sp = s.sp := rfl
@[simp] theorem State.setStk_z (l : List Frame) : (s.setStk l).z = s.z := rfl
@[simp] theorem State.setStk_c (l : List Frame) : (s.setStk l).c = s.c := rfl
@[simp] theorem State.setStk_ie (l : List Frame) : (s.setStk l).ie = s.ie := rfl
@[simp] theorem State.setStk_irq (l : List Frame) : (s.setStk l).irq = s.irq := rfl
@[simp] theorem State.setStk_stk (l : List Frame) : (s.setStk l).stk = l := rfl
@[simp] theorem State.setStk_log (l : List Frame) : (s.setStk l).log = s.log := rfl
@[simp] theorem State.setStk_draws (l : List Frame) : (s.setStk l).draws = s.draws := rfl

/-! `State.nextDraw` -/

@[simp] theorem State.nextDraw_cfg : (s.nextDraw).cfg = s.cfg := rfl
@[simp] theorem State.nextDraw_pm : (s.nextDraw).pm = s.pm := rfl
@[simp] theorem State.nextDraw_devices : (s.nextDraw).devices = s.devices := rfl
@[simp] theorem State.nextDraw_rt : (s.nextDraw).rt = s.rt := rfl
@[simp] theorem State.nextDraw_wt : (s.nextDraw).wt = s.wt := rfl
@[simp] theorem State.nextDraw_pc : (s.nextDraw).pc = s.pc := rfl
@[simp] theorem State.nextDraw_regsA : (s.nextDraw).regsA = s.regsA := rfl
@[simp] theorem State.nextDraw_regsB : (s.nextDraw).regsB = s.regsB := rfl
@[simp] theorem State.nextDraw_bank : (s.nextDraw).bank = s.bank := rfl
@[simp] theorem State.nextDraw_sp : (s.nextDraw).sp = s.sp := rfl
@[simp] theorem State.nextDraw_z : (s.nextDraw).z = s.z := rfl
@[simp] theorem State.nextDraw_c : (s.nextDraw).c = s.c := rfl
@[simp] theorem State.nextDraw_ie : (s.nextDraw).ie = s.ie := rfl
@[simp] theorem State.nextDraw_irq : (s.nextDraw).irq = s.irq := rfl
@[simp] theorem State.nextDraw_stk : (s.nextDraw).stk = s.stk := rfl
@[simp] theorem State.nextDraw_log : (s.nextDraw).log = s.log := rfl
@[simp] theorem State.nextDraw_draws : (s.nextDraw).draws = s.draws + 1 := rfl

/-! `State.portWrite` -/

@[simp] theorem State.portWrite_cfg (p v : Byte) : (s.portWrite p v).cfg = s.cfg := rfl
@[simp] theorem State.portWrite_pm (p v : Byte) : (s.portWrite p v).pm = s.pm := rfl
@[simp] theorem State.portWrite_devices (p v : Byte) : (s.portWrite p v).devices = s.devices := rfl
@[simp] theorem State.portWrite_rt (p v : Byte) : (s.portWrite p v).rt = s.rt := rfl
@[simp] theorem State.portWrite_wt (p v : Byte) : (s.portWrite p v).wt = s.wt := rfl
@[simp] theorem State.portWrite_pc (p v : Byte) : (s.portWrite p v).pc = s.pc := rfl
@[simp] theorem State.portWrite_regsA (p v : Byte) : (s.portWrite p v).regsA = s.regsA := rfl
@[simp] theorem State.portWrite_regsB (p v : Byte) : (s.portWrite p v).regsB = s.regsB := rfl
@[simp] theorem State.portWrite_bank (p v : Byte) : (s.portWrite p v).bank = s.bank := rfl
@[simp] theorem State.portWrite_sp (p v : Byte) : (s.portWrite p v).sp = s.sp := rfl
@[simp] theorem State.portWrite_z (p v : Byte) : (s.portWrite p v).z = s.z := rfl
@[simp] theorem State.portWrite_c (p v : Byte) : (s.portWrite p v).c = s.c := rfl
@[simp] theorem State.portWrite_ie (p v : Byte) : (s.portWrite p v).ie = s.ie := rfl
@[simp] theorem State.portWrite_irq (p v : Byte) : (s.portWrite p v).irq = s.irq := rfl
@[simp] theorem State.portWrite_stk (p v : Byte) : (s.portWrite p v).stk = s.stk := rfl
@[simp] theorem State.portWrite_log (p v : Byte) : (s.portWrite p v).log = s.log ++ [.portAccess .write (portAddr p) (Sparse.lookup s.wt (portAddr p).toNat) v] := rfl
@[simp] theorem State.portWrite_draws (p v : Byte) : (s.portWrite p v).draws = s.draws := rfl

/-! `State.resetCore` -/

@[simp] theorem State.resetCore_cfg : (s.resetCore).cfg = s.cfg := rfl
@[simp] theorem State.resetCore_pm : (s.resetCore).pm = s.pm := rfl
@[simp] theorem State.resetCore_devices : (s.resetCore).devices = s.devices := rfl
@[simp] theorem State.resetCore_rt : (s.resetCore).rt = s.rt := rfl
@[simp] theorem State.resetCore_wt : (s.resetCore).wt = s.wt := rfl
@[simp] theorem State.resetCore_pc : (s.resetCore).pc = 0x000#12 := rfl
@[simp] theorem State.resetCore_regsA : (s.resetCore).regsA = zeroRegs := rfl
@[simp] theorem State.resetCore_regsB : (s.resetCore).regsB = zeroRegs := rfl
@[simp] theorem State.resetCore_bank : (s.resetCore).bank = .a := rfl
@[simp] theorem State.resetCore_sp : (s.resetCore).sp = [] := rfl
@[simp] theorem State.resetCore_z : (s.resetCore).z = false := rfl
@[simp] theorem State.resetCore_c : (s.resetCore).c = false := rfl
@[simp] theorem State.resetCore_ie : (s.resetCore).ie = false := rfl
@[simp] theorem State.resetCore_irq : (s.resetCore).irq = false := rfl
@[simp] theorem State.resetCore_stk : (s.resetCore).stk = [] := rfl
@[simp] theorem State.resetCore_log : (s.resetCore).log = s.log := rfl
@[simp] theorem State.resetCore_draws : (s.resetCore).draws = s.draws := rfl

/-! `State.stackFault` -/

@[simp] theorem State.stackFault_cfg (k : StackFaultKind) (a : Addr) : (s.stackFault k a).cfg = s.cfg := rfl
@[simp] theorem State.stackFault_pm (k : StackFaultKind) (a : Addr) : (s.stackFault k a).pm = s.pm := rfl
@[simp] theorem State.stackFault_devices (k : StackFaultKind) (a : Addr) : (s.stackFault k a).devices = s.devices := rfl
@[simp] theorem State.stackFault_rt (k : StackFaultKind) (a : Addr) : (s.stackFault k a).rt = s.rt := rfl
@[simp] theorem State.stackFault_wt (k : StackFaultKind) (a : Addr) : (s.stackFault k a).wt = s.wt := rfl
@[simp] theorem State.stackFault_pc (k : StackFaultKind) (a : Addr) : (s.stackFault k a).pc = 0x000#12 := rfl
@[simp] theorem State.stackFault_regsA (k : StackFaultKind) (a : Addr) : (s.stackFault k a).regsA = zeroRegs := rfl
@[simp] theorem State.stackFault_regsB (k : StackFaultKind) (a : Addr) : (s.stackFault k a).regsB = zeroRegs := rfl
@[simp] theorem State.stackFault_bank (k : StackFaultKind) (a : Addr) : (s.stackFault k a).bank = .a := rfl
@[simp] theorem State.stackFault_sp (k : StackFaultKind) (a : Addr) : (s.stackFault k a).sp = [] := rfl
@[simp] theorem State.stackFault_z (k : StackFaultKind) (a : Addr) : (s.stackFault k a).z = false := rfl
@[simp] theorem State.stackFault_c (k : StackFaultKind) (a : Addr) : (s.stackFault k a).c = false := rfl
@[simp] theorem State.stackFault_ie (k : StackFaultKind) (a : Addr) : (s.stackFault k a).ie = false := rfl
@[simp] theorem State.stackFault_irq (k : StackFaultKind) (a : Addr) : (s.stackFault k a).irq = false := rfl
@[simp] theorem State.stackFault_stk (k : StackFaultKind) (a : Addr) : (s.stackFault k a).stk = [] := rfl
@[simp] theorem State.stackFault_log (k : StackFaultKind) (a : Addr) : (s.stackFault k a).log = s.log ++ [.stackFault k a] := rfl
@[simp] theorem State.stackFault_draws (k : StackFaultKind) (a : Addr) : (s.stackFault k a).draws = s.draws := rfl

/-! `State.setActiveFlag` -/

@[simp] theorem State.setActiveFlag_cfg (k : Bank) : (s.setActiveFlag k).cfg = s.cfg := rfl
@[simp] theorem State.setActiveFlag_pm (k : Bank) : (s.setActiveFlag k).pm = s.pm := rfl
@[simp] theorem State.setActiveFlag_devices (k : Bank) : (s.setActiveFlag k).devices = s.devices := rfl
@[simp] theorem State.setActiveFlag_rt (k : Bank) : (s.setActiveFlag k).rt = s.rt := rfl
@[simp] theorem State.setActiveFlag_wt (k : Bank) : (s.setActiveFlag k).wt = s.wt := rfl
@[simp] theorem State.setActiveFlag_pc (k : Bank) : (s.setActiveFlag k).pc = s.pc := rfl
@[simp] theorem State.setActiveFlag_regsA (k : Bank) : (s.setActiveFlag k).regsA = (if k = s.activeBank then s.regsA else s.regsB) := rfl
@[simp] theorem State.setActiveFlag_regsB (k : Bank) : (s.setActiveFlag k).regsB = (if k = s.activeBank then s.regsB else s.regsA) := rfl
@[simp] theorem State.setActiveFlag_bank (k : Bank) : (s.setActiveFlag k).bank = (if s.cfg.hasBank then k else .a) := rfl
@[simp] theorem State.setActiveFlag_sp (k : Bank) : (s.setActiveFlag k).sp = s.sp := rfl
@[simp] theorem State.setActiveFlag_z (k : Bank) : (s.setActiveFlag k).z = s.z := rfl
@[simp] theorem State.setActiveFlag_c (k : Bank) : (s.setActiveFlag k).c = s.c := rfl
@[simp] theorem State.setActiveFlag_ie (k : Bank) : (s.setActiveFlag k).ie = s.ie := rfl
@[simp] theorem State.setActiveFlag_irq (k : Bank) : (s.setActiveFlag k).irq = s.irq := rfl
@[simp] theorem State.setActiveFlag_stk (k : Bank) : (s.setActiveFlag k).stk = s.stk := rfl
@[simp] theorem State.setActiveFlag_log (k : Bank) : (s.setActiveFlag k).log = s.log := rfl
@[simp] theorem State.setActiveFlag_draws (k : Bank) : (s.setActiveFlag k).draws = s.draws := rfl

/-! `State.assign` -/

@[simp] theorem State.assign_cfg (a : Addr) (e : Option InsnWord) : (s.assign a e).cfg = s.cfg := rfl
@[simp] theorem State.assign_pm (a : Addr) (e : Option InsnWord) : (s.assign a e).pm = Sparse.put s.pm a.toNat e := rfl
@[simp] theorem State.assign_devices (a : Addr) (e : Option InsnWord) : (s.assign a e).devices = s.devices := rfl
@[simp] theorem State.assign_rt (a : Addr) (e : Option InsnWord) : (s.assign a e).rt = s.rt := rfl
@[simp] theorem State.assign_wt (a : Addr) (e : Option InsnWord) : (s.assign a e).wt = s.wt := rfl
@[simp] theorem State.assign_pc (a : Addr) (e : Option InsnWord) : (s.assign a e).pc = s.pc := rfl
@[simp] theorem State.assign_regsA (a : Addr) (e : Option InsnWord) : (s.assign a e).regsA = s.regsA := rfl
@[simp] theorem State.assign_regsB (a : Addr) (e : Option InsnWord) : (s.assign a e).regsB = s.regsB := rfl
@[simp] theorem State.assign_bank (a : Addr) (e : Option InsnWord) : (s.assign a e).bank = s.bank := rfl
@[simp] theorem State.assign_sp (a : Addr) (e : Option InsnWord) : (s.assign a e).sp = s.sp := rfl
@[simp] theorem State.assign_z (a : Addr) (e : Option InsnWord) : (s.assign a e).z = s.z := rfl
@[simp] theorem State.assign_c (a : Addr) (e : Option InsnWord) : (s.assign a e).c = s.c := rfl
@[simp] theorem State.assign_ie (a : Addr) (e : Option InsnWord) : (s.assign a e).ie = s.ie := rfl
@[simp] theorem State.assign_irq (a : Addr) (e : Option InsnWord) : (s.assign a e).irq = s.irq := rfl
@[simp] theorem State.assign_stk (a : Addr) (e : Option InsnWord) : (s.assign a e).stk = s.stk := rfl
@[simp] theorem State.assign_log (a : Addr) (e : Option InsnWord) : (s.assign a e).log = s.log := rfl
@[simp] theorem State.assign_draws (a : Addr) (e : Option InsnWord) : (s.assign a e).draws = s.draws := rfl

end Sys2Proof.Machine
end

