-- ==== Sys2Proof/Laws/Registers.lean ====
section
/-!
SUPPORT. Laws of registers, banks, scratch pad and stack: reading after a named update.
-/
namespace Sys2Proof.Machine

theorem RegFile.get_put (f : RegFile) (r q : Reg) (v : Byte) :
    RegFile.get (RegFile.put f r v) q = if q = r then v else RegFile.get f q := by
  unfold RegFile.get RegFile.put
  by_cases h : q = r
  · subst h; simp
  · have : r.toNat ≠ q.toNat := fun e => h (BitVec.eq_of_toNat_eq e.symm)
    simp [h, this]

@[simp] theorem RegFile.get_zeroRegs (r : Reg) : RegFile.get zeroRegs r = 0#8 := by
  simp [RegFile.get, zeroRegs]

/-- Two register banks with the same registers are the same bank. -/
theorem RegFile.ext_get {f g : RegFile} (h : ∀ r, RegFile.get f r = RegFile.get g r) : f = g := by
  apply Vector.ext
  intro i hi
  have := h (BitVec.ofNat 4 i)
  simpa [RegFile.get, Nat.mod_eq_of_lt hi] using this

variable (s : State)

/-! Registers after each update. -/

/-- A register read sees only the two banks. -/
theorem State.reg_congr {s t : State} (ha : t.regsA = s.regsA) (hb : t.regsB = s.regsB) (k : Bank) (q : Reg) :
    t.reg k q = s.reg k q := by cases k <;> simp [State.reg, ha, hb]

/-- The active bank depends on the configuration and the selector alone. -/
theorem State.activeBank_congr {s t : State} (hc : t.cfg = s.cfg) (hb : t.bank = s.bank) :
    t.activeBank = s.activeBank := by simp [State.activeBank, hc, hb]

@[simp] theorem State.activeBank_setX (r : Reg) (v : Byte) : (s.setX r v).activeBank = s.activeBank := rfl
@[simp] theorem State.activeBank_setPc (t : Addr) : (s.setPc t).activeBank = s.activeBank := rfl
@[simp] theorem State.activeBank_advance : s.advance.activeBank = s.activeBank := rfl
@[simp] theorem State.activeBank_setFlags (z c : Bool) : (s.setFlags z c).activeBank = s.activeBank := rfl
@[simp] theorem State.activeBank_record (e : Event) : (s.record e).activeBank = s.activeBank := rfl
@[simp] theorem State.activeBank_nextDraw : s.nextDraw.activeBank = s.activeBank := rfl
@[simp] theorem State.activeBank_setStk (l : List Frame) : (s.setStk l).activeBank = s.activeBank := rfl
@[simp] theorem State.activeBank_setIe (b : Bool) : (s.setIe b).activeBank = s.activeBank := rfl

theorem State.reg_setX (r : Reg) (v : Byte) (k : Bank) (q : Reg) :
    (s.setX r v).reg k q = if k = s.activeBank ∧ q = r then v else s.reg k q := by
  cases h : s.activeBank <;> cases k <;> simp [State.reg, State.setX, h, RegFile.get_put]

theorem State.x_setX (r q : Reg) (v : Byte) : (s.setX r v).x q = if q = r then v else s.x q := by
  simp [State.x, State.reg_setX]

/-- With a second bank, the bank that is not active. -/
def Bank.other : Bank → Bank
  | .a => .b
  | .b => .a

theorem State.reg_setInactive (h : s.cfg.hasBank = true) (r : Reg) (v : Byte) (k : Bank) (q : Reg) :
    (s.setInactive r v).reg k q = if k = s.bank.other ∧ q = r then v else s.reg k q := by
  cases hb : s.bank <;> cases k <;>
    simp [State.reg, State.setInactive, State.activeBank, h, hb, RegFile.get_put, Bank.other]

@[simp] theorem State.reg_setPc (t : Addr) (k : Bank) (q : Reg) : (s.setPc t).reg k q = s.reg k q := rfl
@[simp] theorem State.reg_advance (k : Bank) (q : Reg) : s.advance.reg k q = s.reg k q := rfl
@[simp] theorem State.reg_setFlags (z c : Bool) (k : Bank) (q : Reg) : (s.setFlags z c).reg k q = s.reg k q := rfl
@[simp] theorem State.reg_setBank (j : Bank) (k : Bank) (q : Reg) : (s.setBank j).reg k q = s.reg k q := rfl
@[simp] theorem State.reg_setIe (b : Bool) (k : Bank) (q : Reg) : (s.setIe b).reg k q = s.reg k q := rfl
@[simp] theorem State.reg_setIrq (b : Bool) (k : Bank) (q : Reg) : (s.setIrq b).reg k q = s.reg k q := rfl
@[simp] theorem State.reg_record (e : Event) (k : Bank) (q : Reg) : (s.record e).reg k q = s.reg k q := rfl
@[simp] theorem State.reg_nextDraw (k : Bank) (q : Reg) : s.nextDraw.reg k q = s.reg k q := rfl
@[simp] theorem State.reg_memWrite (a v : Byte) (k : Bank) (q : Reg) : (s.memWrite a v).reg k q = s.reg k q := rfl
@[simp] theorem State.reg_setStk (l : List Frame) (k : Bank) (q : Reg) : (s.setStk l).reg k q = s.reg k q := rfl
@[simp] theorem State.reg_portWrite (p v : Byte) (k : Bank) (q : Reg) : (s.portWrite p v).reg k q = s.reg k q := rfl
@[simp] theorem State.reg_resetCore (k : Bank) (q : Reg) : s.resetCore.reg k q = 0#8 := by
  cases k <;> simp [State.reg]

/-! Program memory. -/

/-- After an entry is set, its address holds it and every other address what it held. -/
theorem State.pmAt_assign (a b : Addr) (e : Option InsnWord) :
    (s.assign a e).pmAt b = if a = b then e else s.pmAt b := by
  simp [State.pmAt, Sparse.lookup_put, BitVec.toNat_eq]

/-! The scratch pad. -/

/-- A scratch-pad read sees only the scratch pad and its size. -/
theorem State.memRead_congr {s t : State} (hc : t.cfg = s.cfg) (hm : t.sp = s.sp) (a : Byte) :
    t.memRead a = s.memRead a := by simp [State.memRead, State.scratchIndex, hc, hm]

theorem State.scratchIndex_lt (a : Byte) : s.scratchIndex a < s.cfg.scratchSize.bytes := by
  unfold State.scratchIndex
  cases s.cfg.scratchSize <;> exact Nat.mod_lt _ (by decide)

/-- A read after a write to the same location returns the value written (20_memory.md R212). -/
theorem State.memRead_memWrite (a v d : Byte) :
    (s.memWrite a v).memRead d = if s.scratchIndex a = s.scratchIndex d then v else s.memRead d := by
  show Memory.read (Memory.write s.sp (s.scratchIndex a) v) (s.scratchIndex d) = _
  rw [Memory.read_write]; rfl

@[simp] theorem State.memRead_resetCore (d : Byte) : s.resetCore.memRead d = 0#8 := rfl

end Sys2Proof.Machine
end

