-- ==== Sys2Proof/Laws/Ops.lean ====
section
/-!
SUPPORT. One lemma per shared operation that says everything it can do.
-/
namespace Sys2Proof.Machine

variable (s : State)

/-- `Push` fails exactly on a full stack, and otherwise appends the frame. -/
theorem State.push_cases (f : Frame) :
    (s.stk.length = s.cfg.stackDepth ∧ s.push f = none) ∨
    (s.stk.length ≠ s.cfg.stackDepth ∧ s.push f = some (s.setStk (s.stk ++ [f]))) := by
  unfold State.push
  by_cases h : s.stk.length = s.cfg.stackDepth <;> simp [h]

/-- `Pop` fails exactly on an empty stack, and otherwise takes the last frame. -/
theorem State.pop_cases :
    (s.stk = [] ∧ s.pop = none) ∨
    (∃ rest f, s.stk = rest ++ [f] ∧ s.pop = some (f, s.setStk rest)) := by
  rcases List.eq_nil_or_concat s.stk with h | ⟨rest, f, h⟩
  · exact .inl ⟨h, by simp [State.pop, h]⟩
  · exact .inr ⟨rest, f, by simpa using h, by simp [State.pop, h]⟩

theorem State.pop_empty (h : s.stk = []) : s.pop = none := by simp [State.pop, h]

theorem State.pop_concat {rest : List Frame} {f : Frame} (h : s.stk = rest ++ [f]) :
    s.pop = some (f, s.setStk rest) := by simp [State.pop, h]

/-- A call resets on a full stack, and otherwise pushes the call frame and jumps. -/
theorem State.callTo_cases (t : Addr) :
    (s.stk.length = s.cfg.stackDepth ∧ s.callTo t = s.stackFault .overflow s.pc) ∨
    (s.stk.length ≠ s.cfg.stackDepth ∧ s.callTo t = (s.setStk (s.stk ++ [s.callFrame])).setPc t) := by
  unfold State.callTo
  rcases s.push_cases s.callFrame with ⟨h, e⟩ | ⟨h, e⟩
  · exact .inl ⟨h, by rw [e]⟩
  · exact .inr ⟨h, by rw [e]⟩

/-- A return resets on an empty stack, and otherwise pops and goes to the address after the frame's. -/
theorem State.returnToCaller_cases :
    (s.stk = [] ∧ s.returnToCaller = s.stackFault .underflow s.pc) ∨
    (∃ rest f, s.stk = rest ++ [f] ∧ s.returnToCaller = (s.setStk rest).setPc (f.addr + 1#12)) := by
  unfold State.returnToCaller
  rcases s.pop_cases with ⟨h, e⟩ | ⟨rest, f, h, e⟩
  · exact .inl ⟨h, by rw [e]⟩
  · exact .inr ⟨rest, f, h, by rw [e]⟩

/-- Interrupt entry resets on a full stack, and otherwise pushes the interrupt frame and goes to the vector. -/
theorem State.interruptEntry_cases :
    (s.stk.length = s.cfg.stackDepth ∧ s.interruptEntry = s.stackFault .overflow s.pc) ∨
    (s.stk.length ≠ s.cfg.stackDepth ∧
      s.interruptEntry =
        (((((s.setIe false).setIrq false).setStk (s.stk ++ [s.intFrame])).setPc s.cfg.intVector).record
          (.interruptEntry s.pc))) := by
  unfold State.interruptEntry
  rcases ((s.setIe false).setIrq false).push_cases s.intFrame with ⟨h, e⟩ | ⟨h, e⟩
  · exact .inl ⟨h, by rw [e]⟩
  · exact .inr ⟨h, by rw [e]; rfl⟩

/-- Restoring a frame changes the flags and the bank, and only of an interrupt frame of the extended variant. -/
theorem State.restore_cases (f : Frame) :
    (∃ p, f.snap = some p ∧ s.cfg.hasBank = true ∧ p.isInt = true ∧
      s.restore f = (s.setFlags p.z p.c).setBank p.bank) ∨
    ((s.cfg.hasBank = false ∨ f.isInt = false) ∧ s.restore f = s) := by
  unfold State.restore Frame.isInt
  cases f.snap with
  | none => exact .inr ⟨.inr rfl, rfl⟩
  | some p => cases hb : s.cfg.hasBank <;> cases hi : p.isInt <;> simp [hi]

/-- A return from interrupt: a reset on an empty stack, a fault on a frame no interrupt pushed in strict mode, and
otherwise the frame's address and what `restore` gives back. -/
theorem State.returnFromInterrupt_cases (b : Bool) :
    (s.stk = [] ∧ s.returnFromInterrupt b = .next (s.stackFault .underflow s.pc)) ∨
    (∃ rest f, s.stk = rest ++ [f] ∧ s.cfg.hasBank = true ∧ f.isInt = false ∧ s.cfg.strictDecode = true ∧
      s.returnFromInterrupt b = .fault (.frameMismatch f)) ∨
    (∃ rest f, s.stk = rest ++ [f] ∧ ¬(s.cfg.hasBank = true ∧ f.isInt = false ∧ s.cfg.strictDecode = true) ∧
      s.returnFromInterrupt b = .next ((((s.setStk rest).setPc f.addr).restore f).setIe b)) := by
  unfold State.returnFromInterrupt
  rcases s.pop_cases with ⟨h, e⟩ | ⟨rest, f, h, e⟩
  · exact .inl ⟨h, by rw [e]⟩
  · refine .inr ?_
    rw [e]
    by_cases hc : s.cfg.hasBank = true ∧ f.isInt = false ∧ s.cfg.strictDecode = true
    · exact .inl ⟨rest, f, h, hc.1, hc.2.1, hc.2.2, by simp [hc.1, hc.2.1, hc.2.2]⟩
    · refine .inr ⟨rest, f, h, hc, ?_⟩
      have : (s.cfg.hasBank && !f.isInt && s.cfg.strictDecode) = false := by
        cases h1 : s.cfg.hasBank <;> cases h2 : f.isInt <;> cases h3 : s.cfg.strictDecode <;> simp_all
      simp [this]

/-- A port read answers a draw of the bound device or 0, and logs one dispatch. -/
theorem State.portRead_cases (p : Byte) :
    (∃ r, Sparse.lookup s.rt (portAddr p).toNat = some r ∧
      s.portRead p = (Config.deviceValue s.draws r.device r.index,
        s.nextDraw.record (.portAccess .read (portAddr p) (some r) (Config.deviceValue s.draws r.device r.index)))) ∨
    (Sparse.lookup s.rt (portAddr p).toNat = none ∧
      s.portRead p = (0#8, s.record (.portAccess .read (portAddr p) none 0#8))) := by
  unfold State.portRead
  cases h : Sparse.lookup s.rt (portAddr p).toNat with
  | some r => exact .inl ⟨r, rfl, rfl⟩
  | none => exact .inr ⟨rfl, rfl⟩

/-- An unassigned word: a logged no-op, or the final fault in strict mode. -/
theorem State.runUnassigned_cases (w : InsnWord) :
    (s.cfg.strictDecode = true ∧ s.runUnassigned w = .fault (.unassignedOpcode w s.pc)) ∨
    (s.cfg.strictDecode = false ∧ s.runUnassigned w = .next (s.advance.record (.unassigned w s.pc))) := by
  unfold State.runUnassigned
  cases s.cfg.strictDecode <;> simp

end Sys2Proof.Machine
end

