-- ==== Sys2Proof/Laws/Exec.lean ====
section
/-!
SUPPORT. What an instruction can do, said once: every next state of `exec` has one of the shapes below, so a fact about every
instruction is a fact about each shape.
-/
namespace Sys2Proof.Machine

/-- The next states instruction `i` may leave in state `s`. -/
inductive ExecShape (i : Instr) (s : State) : State → Prop
  | alu (x : Reg) (v : Byte) (z c : Bool) : ExecShape i s ((s.setX x v).setFlags z c).advance
  | plain (x : Reg) (v : Byte) : ExecShape i s (s.setX x v).advance
  | flags (z c : Bool) : ExecShape i s (s.setFlags z c).advance
  | store (a v : Byte) : ExecShape i s (s.memWrite a v).advance
  | input (p : Byte) (x : Reg) : ExecShape i s ((s.portRead p).2.setX x (s.portRead p).1).advance
  | output (p v : Byte) : ExecShape i s (s.portWrite p v).advance
  | bank (k : Bank) : ExecShape i s (s.setBank k).advance
  | star (x : Reg) (v : Byte) (h : (∃ a y, i = .starReg a y) ∨ ∃ a kk, i = .starImm a kk) :
      ExecShape i s (s.setInactive x v).advance
  | jump (a : Addr) : ExecShape i s (s.setPc a)
  | call (a : Addr) (h : s.stk.length ≠ s.cfg.stackDepth) :
      ExecShape i s ((s.setStk (s.stk ++ [s.callFrame])).setPc a)
  | stackFault (k : StackFaultKind) : ExecShape i s (s.stackFault k s.pc)
  | ret (rest : List Frame) (f : Frame) (a : Addr) (h : s.stk = rest ++ [f]) : ExecShape i s ((s.setStk rest).setPc a)
  | loadRet (rest : List Frame) (f : Frame) (a : Addr) (x : Reg) (v : Byte) (h : s.stk = rest ++ [f]) :
      ExecShape i s (((s.setStk rest).setX x v).setPc a)
  | reti (rest : List Frame) (f : Frame) (b : Bool) (h : s.stk = rest ++ [f]) :
      ExecShape i s ((((s.setStk rest).setPc f.addr).restore f).setIe b)
  | enable (b : Bool) : ExecShape i s (s.setIe b).advance

variable {i : Instr} {s t : State}

theorem ExecShape.of_call (a : Addr) : ExecShape i s (s.callTo a) := by
  rcases s.callTo_cases a with ⟨_, e⟩ | ⟨h, e⟩ <;> rw [e]
  · exact .stackFault _
  · exact .call _ h

theorem ExecShape.of_return : ExecShape i s s.returnToCaller := by
  rcases s.returnToCaller_cases with ⟨_, e⟩ | ⟨_, _, h, e⟩ <;> rw [e]
  · exact .stackFault _
  · exact .ret _ _ _ h

theorem ExecShape.of_if (k : Cond) (h : ExecShape i s t) : ExecShape i s (if k.holds s then t else s.advance) := by
  split
  · exact h
  · exact .jump _

theorem ExecShape.of_reti {b : Bool} (h : s.returnFromInterrupt b = .next t) : ExecShape i s t := by
  rcases s.returnFromInterrupt_cases b with ⟨_, e⟩ | ⟨_, _, _, _, _, _, e⟩ | ⟨_, _, hs, _, e⟩ <;>
    rw [e] at h <;> cases h
  · exact .stackFault _
  · exact .reti _ _ _ hs

theorem ExecShape.of_loadReturn {x : Reg} {kk : Byte} (h : execLoadReturn x kk s = .next t) : ExecShape i s t := by
  unfold execLoadReturn at h
  rcases s.pop_cases with ⟨_, e⟩ | ⟨_, _, hs, e⟩ <;> rw [e] at h <;> cases h
  · exact .stackFault _
  · exact .loadRet _ _ _ _ _ hs

/-- Every next state of `exec` has one of the shapes. -/
theorem exec_shape (h : exec i s = .next t) : ExecShape i s t := by
  cases i <;> first
    | exact .of_reti h
    | exact .of_loadReturn h
    | (cases h; first
        | exact .alu _ _ _ _
        | exact .plain _ _
        | exact .flags _ _
        | exact .store _ _
        | exact .input _ _
        | exact .output _ _
        | exact .bank _
        | exact .star _ _ (.inl ⟨_, _, rfl⟩)
        | exact .star _ _ (.inr ⟨_, _, rfl⟩)
        | exact .jump _
        | exact .of_call _
        | exact .of_return
        | exact .of_if _ (.jump _)
        | exact .of_if _ (.of_call _)
        | exact .of_if _ .of_return
        | exact .enable _)

end Sys2Proof.Machine
end

