-- ==== Sys2Proof/Laws/Host.lean ====
section
/-!
SUPPORT. Laws of the host's memory operations: a loaded program and a loaded scratch pad are in canonical form and inside their
address spaces, and the router tables rise.
-/
namespace Sys2Proof.Machine

/-- A number that fits a field is the field's value. -/
theorem fitBits_eq_some {w v : Nat} {b : BitVec w} (h : fitBits w v = some b) : b.toNat = v := by
  unfold fitBits at h
  split at h
  · cases h; simp [Nat.mod_eq_of_lt ‹_›]
  · cases h

/-- A field's value fits its field. -/
@[simp] theorem fitBits_toNat {w : Nat} (b : BitVec w) : fitBits w b.toNat = some b := by
  simp [fitBits, b.isLt]

@[simp] theorem fitBool_toNat (b : Bool) : fitBool b.toNat = some b := by cases b <;> rfl
@[simp] theorem fitBank_toNat (k : Bank) : fitBank k.toNat = some k := by cases k <;> rfl

/-- Every entry made from a list of bytes lies at its location or above. -/
theorem Memory.mem_ofBytes {l : List Nat} {k : Nat} {e : Host.Cell} (h : e ∈ Memory.ofBytes k l) :
    k ≤ e.1 ∧ e.1 < k + l.length ∧ e.2 ≠ 0#8 := by
  induction l generalizing k with
  | nil => cases h
  | cons v vs ih =>
    simp only [Memory.ofBytes] at h
    split at h
    · obtain ⟨h1, h2, h3⟩ := ih h
      simp only [List.length_cons]; exact ⟨by omega, by omega, h3⟩
    · next hv =>
      rcases List.mem_cons.1 h with rfl | h
      · simp only [List.length_cons]; exact ⟨by simp, by simp, hv⟩
      · obtain ⟨h1, h2, h3⟩ := ih h
        simp only [List.length_cons]; exact ⟨by omega, by omega, h3⟩

theorem Memory.ofBytes_wf (k : Nat) (l : List Nat) : Memory.wf (Memory.ofBytes k l) := by
  refine ⟨?_, fun e he => (Memory.mem_ofBytes he).2.2⟩
  induction l generalizing k with
  | nil => exact List.Pairwise.nil
  | cons v vs ih =>
    simp only [Memory.ofBytes]
    split
    · exact ih _
    · exact List.pairwise_cons.2 ⟨fun e he => (Memory.mem_ofBytes he).1, ih _⟩

theorem Memory.ofBytes_below (l : List Nat) : Sparse.below l.length (Memory.ofBytes 0 l) := fun e he => by
  simpa using (Memory.mem_ofBytes he).2.1

/-- What a memory made from a list of bytes reads as. -/
theorem Memory.read_ofBytes (l : List Nat) (k j : Nat) :
    Memory.read (Memory.ofBytes k l) (k + j) = BitVec.ofNat 8 (l.getD j 0) := by
  have below : ∀ (l : List Nat) (k j : Nat), j < k → Memory.read (Memory.ofBytes k l) j = 0#8 := by
    intro l k j hj
    unfold Memory.read
    cases h : Sparse.lookup (Memory.ofBytes k l) j with
    | none => rfl
    | some v => exact absurd (Memory.mem_ofBytes (Sparse.mem_of_lookup h)).1 (Nat.not_le.2 hj)
  induction l generalizing k j with
  | nil => simp [Memory.ofBytes]
  | cons v vs ih =>
    simp only [Memory.ofBytes]
    cases j with
    | zero =>
      split
      · next hv => exact (below vs (k + 1) k (Nat.lt_succ_self k)).trans (by simpa using hv.symm)
      · simp [Memory.read, Sparse.lookup]
    | succ j =>
      have e : k + (j + 1) = k + 1 + j := by omega
      split
      · rw [e, ih]; simp
      · have : k ≠ k + 1 + j := by omega
        rw [e]; simp only [Memory.read, Sparse.lookup, this, if_false]
        simpa [Memory.read] using ih (k + 1) j

/-- A loaded program is canonical and inside the 4096 words. -/
theorem loadWords_rising {ws : List (Nat × Nat)} {m : List (Nat × InsnWord)} (h : loadWords ws = some m) :
    Sparse.rising m ∧ Sparse.below 4096 m := by
  induction ws generalizing m with
  | nil => cases h; exact ⟨List.Pairwise.nil, by simp [Sparse.below]⟩
  | cons e rest ih =>
    obtain ⟨a, w⟩ := e
    simp only [loadWords] at h
    split at h
    · next t v m' _ _ hm =>
      cases h
      exact ⟨Sparse.insert_rising _ _ (ih hm).1, Sparse.insert_below _ (by simpa using t.isLt) (ih hm).2⟩
    · cases h

/-- Filling a table from one token changes what the token's own range and direction cover, and nothing else. -/
theorem lookup_fillToken (d : Dir) (dev : Device) (table : List (Nat × Route)) (tok : Token) (a : Nat) :
    Sparse.lookup (fillToken d dev table tok) a =
      if tok.allows dev d && decide (tok.low ≤ a) && decide (a ≤ tok.high) then
        some { device := dev.id, index := a - tok.low + tok.offset }
      else Sparse.lookup table a := by
  have fold : ∀ (l : List Nat) (t : List (Nat × Route)),
      Sparse.lookup (l.foldl (fun t a => Sparse.insert t a
        { device := dev.id, index := a - tok.low + tok.offset }) t) a =
      if a ∈ l then some { device := dev.id, index := a - tok.low + tok.offset } else Sparse.lookup t a := by
    intro l
    induction l with
    | nil => simp
    | cons b bs ih =>
      intro t
      rw [List.foldl_cons, ih, Sparse.lookup_insert]
      by_cases h : a ∈ bs
      · simp [h]
      · by_cases hb : b = a
        · subst hb; simp
        · simp [h, hb, Ne.symm hb]
  unfold fillToken Token.addresses
  by_cases h : tok.allows dev d = true
  · have range : a ∈ List.range' tok.low (tok.high + 1 - tok.low) ↔ tok.low ≤ a ∧ a ≤ tok.high := by
      rw [List.mem_range'_1]; omega
    rw [if_pos h, fold]
    simp [h, range]
  · simp [h]

theorem fillToken_rising {d : Dir} {dev : Device} {table : List (Nat × Route)} (tok : Token)
    (h : Sparse.rising table) : Sparse.rising (fillToken d dev table tok) := by
  unfold fillToken
  split
  · generalize tok.addresses = l
    induction l generalizing table with
    | nil => exact h
    | cons b bs ih => exact ih (Sparse.insert_rising _ _ h)
  · exact h

theorem fillDevice_rising {d : Dir} {dev : Device} {table : List (Nat × Route)} (h : Sparse.rising table) :
    Sparse.rising (fillDevice d table dev) := by
  unfold fillDevice
  generalize (parseSpec dev.spec).getD [] = l
  induction l generalizing table with
  | nil => exact h
  | cons b bs ih => exact ih (fillToken_rising _ h)

/-- The router tables are in canonical form: their addresses rise. -/
theorem buildTable_rising (d : Dir) (devices : List Device) : Sparse.rising (buildTable d devices) := by
  unfold buildTable
  suffices ∀ t, Sparse.rising t → Sparse.rising (devices.foldl (fillDevice d) t) from this [] List.Pairwise.nil
  induction devices with
  | nil => exact fun _ h => h
  | cons b bs ih => exact fun t h => ih _ (fillDevice_rising h)

end Sys2Proof.Machine
end

