-- ==== Sys2Proof/Laws/PerInstr.lean ====
section
/-!
SUPPORT. One law for each instruction: the word it is assembled to has the fixed bits of its row of spec/opcode_table.json,
whatever its operands.
-/
set_option Elab.async false

namespace Sys2Proof.Laws.RowBits

/-- A fixed field of a row of the opcode table: its lowest bit, its width and the value it holds. -/
structure FixedField where
  lo : Nat
  width : Nat
  value : Nat
  deriving DecidableEq, Repr

/-- The fixed fields of an instruction's row, as the table's "fixed" lists them. -/
def row : Instr → List FixedField
  | .loadReg _ _ => [⟨12, 6, 0x0⟩]
  | .loadImm _ _ => [⟨12, 6, 0x1⟩]
  | .andReg _ _ => [⟨12, 6, 0x2⟩]
  | .andImm _ _ => [⟨12, 6, 0x3⟩]
  | .orReg _ _ => [⟨12, 6, 0x4⟩]
  | .orImm _ _ => [⟨12, 6, 0x5⟩]
  | .xorReg _ _ => [⟨12, 6, 0x6⟩]
  | .xorImm _ _ => [⟨12, 6, 0x7⟩]
  | .inputReg _ _ => [⟨12, 6, 0x8⟩]
  | .inputImm _ _ => [⟨12, 6, 0x9⟩]
  | .fetchReg _ _ => [⟨12, 6, 0xA⟩]
  | .fetchImm _ _ => [⟨12, 6, 0xB⟩]
  | .testReg _ _ => [⟨12, 6, 0xC⟩]
  | .testImm _ _ => [⟨12, 6, 0xD⟩]
  | .testcyReg _ _ => [⟨12, 6, 0xE⟩]
  | .testcyImm _ _ => [⟨12, 6, 0xF⟩]
  | .addReg _ _ => [⟨12, 6, 0x10⟩]
  | .addImm _ _ => [⟨12, 6, 0x11⟩]
  | .addcyReg _ _ => [⟨12, 6, 0x12⟩]
  | .addcyImm _ _ => [⟨12, 6, 0x13⟩]
  | .sla _ => [⟨12, 6, 0x14⟩, ⟨0, 4, 0x0⟩]
  | .rl _ => [⟨12, 6, 0x14⟩, ⟨0, 4, 0x2⟩]
  | .slx _ => [⟨12, 6, 0x14⟩, ⟨0, 4, 0x4⟩]
  | .sl0 _ => [⟨12, 6, 0x14⟩, ⟨0, 4, 0x6⟩]
  | .sl1 _ => [⟨12, 6, 0x14⟩, ⟨0, 4, 0x7⟩]
  | .sra _ => [⟨12, 6, 0x14⟩, ⟨0, 4, 0x8⟩]
  | .srx _ => [⟨12, 6, 0x14⟩, ⟨0, 4, 0xA⟩]
  | .rr _ => [⟨12, 6, 0x14⟩, ⟨0, 4, 0xC⟩]
  | .sr0 _ => [⟨12, 6, 0x14⟩, ⟨0, 4, 0xE⟩]
  | .sr1 _ => [⟨12, 6, 0x14⟩, ⟨0, 4, 0xF⟩]
  | .hwbuild _ => [⟨12, 6, 0x14⟩, ⟨0, 8, 0x80⟩]
  | .starReg _ _ => [⟨12, 6, 0x16⟩]
  | .starImm _ _ => [⟨12, 6, 0x17⟩]
  | .subReg _ _ => [⟨12, 6, 0x18⟩]
  | .subImm _ _ => [⟨12, 6, 0x19⟩]
  | .subcyReg _ _ => [⟨12, 6, 0x1A⟩]
  | .subcyImm _ _ => [⟨12, 6, 0x1B⟩]
  | .compareReg _ _ => [⟨12, 6, 0x1C⟩]
  | .compareImm _ _ => [⟨12, 6, 0x1D⟩]
  | .comparecyReg _ _ => [⟨12, 6, 0x1E⟩]
  | .comparecyImm _ _ => [⟨12, 6, 0x1F⟩]
  | .call _ => [⟨12, 6, 0x20⟩]
  | .loadReturn _ _ => [⟨12, 6, 0x21⟩]
  | .jump _ => [⟨12, 6, 0x22⟩]
  | .callAt _ _ => [⟨12, 6, 0x24⟩]
  | .ret => [⟨12, 6, 0x25⟩]
  | .jumpAt _ _ => [⟨12, 6, 0x26⟩]
  | .disableInterrupt => [⟨12, 6, 0x28⟩, ⟨0, 1, 0x0⟩]
  | .enableInterrupt => [⟨12, 6, 0x28⟩, ⟨0, 1, 0x1⟩]
  | .returniDisable => [⟨12, 6, 0x29⟩, ⟨0, 1, 0x0⟩]
  | .returniEnable => [⟨12, 6, 0x29⟩, ⟨0, 1, 0x1⟩]
  | .outputk _ _ => [⟨12, 6, 0x2B⟩]
  | .outputReg _ _ => [⟨12, 6, 0x2C⟩]
  | .outputImm _ _ => [⟨12, 6, 0x2D⟩]
  | .storeReg _ _ => [⟨12, 6, 0x2E⟩]
  | .storeImm _ _ => [⟨12, 6, 0x2F⟩]
  | .callZ _ => [⟨12, 6, 0x30⟩]
  | .retZ => [⟨12, 6, 0x31⟩]
  | .jumpZ _ => [⟨12, 6, 0x32⟩]
  | .callNZ _ => [⟨12, 6, 0x34⟩]
  | .retNZ => [⟨12, 6, 0x35⟩]
  | .jumpNZ _ => [⟨12, 6, 0x36⟩]
  | .regbankA => [⟨12, 6, 0x37⟩, ⟨0, 1, 0x0⟩]
  | .regbankB => [⟨12, 6, 0x37⟩, ⟨0, 1, 0x1⟩]
  | .callC _ => [⟨12, 6, 0x38⟩]
  | .retC => [⟨12, 6, 0x39⟩]
  | .jumpC _ => [⟨12, 6, 0x3A⟩]
  | .callNC _ => [⟨12, 6, 0x3C⟩]
  | .retNC => [⟨12, 6, 0x3D⟩]
  | .jumpNC _ => [⟨12, 6, 0x3E⟩]

/-- Every fixed field of the instruction's row stands in its word. -/
def Statement (i : Instr) : Prop :=
  ∀ f ∈ row i, (encode i).toNat / 2 ^ f.lo % 2 ^ f.width = f.value

/-- A row with the opcode alone fixed. -/
theorem of_op {i : Instr} {op : BitVec 6} (hr : row i = [⟨12, 6, op.toNat⟩]) (h : fieldOp (encode i) = op) :
    Statement i := by
  intro f hf
  rw [hr, List.mem_singleton] at hf
  subst hf
  rw [← h, fieldOp, extract_toNat]

/-- A row with the opcode and a low field fixed. -/
theorem of_op_low {i : Instr} {op : BitVec 6} {n v : Nat} (hr : row i = [⟨12, 6, op.toNat⟩, ⟨0, n, v⟩])
    (h : fieldOp (encode i) = op) (hl : ((encode i).extractLsb' 0 n).toNat = v) : Statement i := by
  intro f hf
  rw [hr, List.mem_cons, List.mem_singleton] at hf
  rcases hf with rfl | rfl
  · rw [← h, fieldOp, extract_toNat]
  · rw [← hl, extract_toNat]

/-- The lowest bit of a `B1` word. -/
theorem low_wordB1 (op : BitVec 6) (b : Bool) : ((wordB1 op b).extractLsb' 0 1).toNat = b.toNat := by
  have := b.toNat_le
  rw [extract_toNat, wordB1_toNat]; omega

theorem loadReg (x y : Reg) : Statement (.loadReg x y) := of_op rfl (fieldOp_wordRR _ _ _)
theorem loadImm (x : Reg) (kk : Byte) : Statement (.loadImm x kk) := of_op rfl (fieldOp_wordRK _ _ _)
theorem andReg (x y : Reg) : Statement (.andReg x y) := of_op rfl (fieldOp_wordRR _ _ _)
theorem andImm (x : Reg) (kk : Byte) : Statement (.andImm x kk) := of_op rfl (fieldOp_wordRK _ _ _)
theorem orReg (x y : Reg) : Statement (.orReg x y) := of_op rfl (fieldOp_wordRR _ _ _)
theorem orImm (x : Reg) (kk : Byte) : Statement (.orImm x kk) := of_op rfl (fieldOp_wordRK _ _ _)
theorem xorReg (x y : Reg) : Statement (.xorReg x y) := of_op rfl (fieldOp_wordRR _ _ _)
theorem xorImm (x : Reg) (kk : Byte) : Statement (.xorImm x kk) := of_op rfl (fieldOp_wordRK _ _ _)
theorem inputReg (x y : Reg) : Statement (.inputReg x y) := of_op rfl (fieldOp_wordRR _ _ _)
theorem inputImm (x : Reg) (pp : Byte) : Statement (.inputImm x pp) := of_op rfl (fieldOp_wordRK _ _ _)
theorem fetchReg (x y : Reg) : Statement (.fetchReg x y) := of_op rfl (fieldOp_wordRR _ _ _)
theorem fetchImm (x : Reg) (ss : Byte) : Statement (.fetchImm x ss) := of_op rfl (fieldOp_wordRK _ _ _)
theorem testReg (x y : Reg) : Statement (.testReg x y) := of_op rfl (fieldOp_wordRR _ _ _)
theorem testImm (x : Reg) (kk : Byte) : Statement (.testImm x kk) := of_op rfl (fieldOp_wordRK _ _ _)
theorem testcyReg (x y : Reg) : Statement (.testcyReg x y) := of_op rfl (fieldOp_wordRR _ _ _)
theorem testcyImm (x : Reg) (kk : Byte) : Statement (.testcyImm x kk) := of_op rfl (fieldOp_wordRK _ _ _)
theorem addReg (x y : Reg) : Statement (.addReg x y) := of_op rfl (fieldOp_wordRR _ _ _)
theorem addImm (x : Reg) (kk : Byte) : Statement (.addImm x kk) := of_op rfl (fieldOp_wordRK _ _ _)
theorem addcyReg (x y : Reg) : Statement (.addcyReg x y) := of_op rfl (fieldOp_wordRR _ _ _)
theorem addcyImm (x : Reg) (kk : Byte) : Statement (.addcyImm x kk) := of_op rfl (fieldOp_wordRK _ _ _)
theorem sla (x : Reg) : Statement (.sla x) := of_op_low rfl (fieldOp_wordSH _ _) (congrArg BitVec.toNat (fieldCode_wordSH _ _))
theorem rl (x : Reg) : Statement (.rl x) := of_op_low rfl (fieldOp_wordSH _ _) (congrArg BitVec.toNat (fieldCode_wordSH _ _))
theorem slx (x : Reg) : Statement (.slx x) := of_op_low rfl (fieldOp_wordSH _ _) (congrArg BitVec.toNat (fieldCode_wordSH _ _))
theorem sl0 (x : Reg) : Statement (.sl0 x) := of_op_low rfl (fieldOp_wordSH _ _) (congrArg BitVec.toNat (fieldCode_wordSH _ _))
theorem sl1 (x : Reg) : Statement (.sl1 x) := of_op_low rfl (fieldOp_wordSH _ _) (congrArg BitVec.toNat (fieldCode_wordSH _ _))
theorem sra (x : Reg) : Statement (.sra x) := of_op_low rfl (fieldOp_wordSH _ _) (congrArg BitVec.toNat (fieldCode_wordSH _ _))
theorem srx (x : Reg) : Statement (.srx x) := of_op_low rfl (fieldOp_wordSH _ _) (congrArg BitVec.toNat (fieldCode_wordSH _ _))
theorem rr (x : Reg) : Statement (.rr x) := of_op_low rfl (fieldOp_wordSH _ _) (congrArg BitVec.toNat (fieldCode_wordSH _ _))
theorem sr0 (x : Reg) : Statement (.sr0 x) := of_op_low rfl (fieldOp_wordSH _ _) (congrArg BitVec.toNat (fieldCode_wordSH _ _))
theorem sr1 (x : Reg) : Statement (.sr1 x) := of_op_low rfl (fieldOp_wordSH _ _) (congrArg BitVec.toNat (fieldCode_wordSH _ _))
theorem hwbuild (x : Reg) : Statement (.hwbuild x) := of_op_low rfl (fieldOp_wordRK _ _ _) (congrArg BitVec.toNat (fieldKK_wordRK _ _ _))
theorem starReg (x y : Reg) : Statement (.starReg x y) := of_op rfl (fieldOp_wordRR _ _ _)
theorem starImm (x : Reg) (kk : Byte) : Statement (.starImm x kk) := of_op rfl (fieldOp_wordRK _ _ _)
theorem subReg (x y : Reg) : Statement (.subReg x y) := of_op rfl (fieldOp_wordRR _ _ _)
theorem subImm (x : Reg) (kk : Byte) : Statement (.subImm x kk) := of_op rfl (fieldOp_wordRK _ _ _)
theorem subcyReg (x y : Reg) : Statement (.subcyReg x y) := of_op rfl (fieldOp_wordRR _ _ _)
theorem subcyImm (x : Reg) (kk : Byte) : Statement (.subcyImm x kk) := of_op rfl (fieldOp_wordRK _ _ _)
theorem compareReg (x y : Reg) : Statement (.compareReg x y) := of_op rfl (fieldOp_wordRR _ _ _)
theorem compareImm (x : Reg) (kk : Byte) : Statement (.compareImm x kk) := of_op rfl (fieldOp_wordRK _ _ _)
theorem comparecyReg (x y : Reg) : Statement (.comparecyReg x y) := of_op rfl (fieldOp_wordRR _ _ _)
theorem comparecyImm (x : Reg) (kk : Byte) : Statement (.comparecyImm x kk) := of_op rfl (fieldOp_wordRK _ _ _)
theorem call (aaa : Addr) : Statement (.call aaa) := of_op rfl (fieldOp_wordJA _ _)
theorem loadReturn (x : Reg) (kk : Byte) : Statement (.loadReturn x kk) := of_op rfl (fieldOp_wordRK _ _ _)
theorem jump (aaa : Addr) : Statement (.jump aaa) := of_op rfl (fieldOp_wordJA _ _)
theorem callAt (x y : Reg) : Statement (.callAt x y) := of_op rfl (fieldOp_wordRR _ _ _)
theorem ret : Statement .ret := of_op rfl (fieldOp_wordRT _)
theorem jumpAt (x y : Reg) : Statement (.jumpAt x y) := of_op rfl (fieldOp_wordRR _ _ _)
theorem disableInterrupt : Statement .disableInterrupt := of_op_low rfl (fieldOp_wordB1 _ _) (low_wordB1 _ _)
theorem enableInterrupt : Statement .enableInterrupt := of_op_low rfl (fieldOp_wordB1 _ _) (low_wordB1 _ _)
theorem returniDisable : Statement .returniDisable := of_op_low rfl (fieldOp_wordB1 _ _) (low_wordB1 _ _)
theorem returniEnable : Statement .returniEnable := of_op_low rfl (fieldOp_wordB1 _ _) (low_wordB1 _ _)
theorem outputk (kx : Byte) (p : BitVec 4) : Statement (.outputk kx p) := of_op rfl (fieldOp_wordKP _ _ _)
theorem outputReg (x y : Reg) : Statement (.outputReg x y) := of_op rfl (fieldOp_wordRR _ _ _)
theorem outputImm (x : Reg) (pp : Byte) : Statement (.outputImm x pp) := of_op rfl (fieldOp_wordRK _ _ _)
theorem storeReg (x y : Reg) : Statement (.storeReg x y) := of_op rfl (fieldOp_wordRR _ _ _)
theorem storeImm (x : Reg) (ss : Byte) : Statement (.storeImm x ss) := of_op rfl (fieldOp_wordRK _ _ _)
theorem callZ (aaa : Addr) : Statement (.callZ aaa) := of_op rfl (fieldOp_wordJA _ _)
theorem retZ : Statement .retZ := of_op rfl (fieldOp_wordRT _)
theorem jumpZ (aaa : Addr) : Statement (.jumpZ aaa) := of_op rfl (fieldOp_wordJA _ _)
theorem callNZ (aaa : Addr) : Statement (.callNZ aaa) := of_op rfl (fieldOp_wordJA _ _)
theorem retNZ : Statement .retNZ := of_op rfl (fieldOp_wordRT _)
theorem jumpNZ (aaa : Addr) : Statement (.jumpNZ aaa) := of_op rfl (fieldOp_wordJA _ _)
theorem regbankA : Statement .regbankA := of_op_low rfl (fieldOp_wordB1 _ _) (low_wordB1 _ _)
theorem regbankB : Statement .regbankB := of_op_low rfl (fieldOp_wordB1 _ _) (low_wordB1 _ _)
theorem callC (aaa : Addr) : Statement (.callC aaa) := of_op rfl (fieldOp_wordJA _ _)
theorem retC : Statement .retC := of_op rfl (fieldOp_wordRT _)
theorem jumpC (aaa : Addr) : Statement (.jumpC aaa) := of_op rfl (fieldOp_wordJA _ _)
theorem callNC (aaa : Addr) : Statement (.callNC aaa) := of_op rfl (fieldOp_wordJA _ _)
theorem retNC : Statement .retNC := of_op rfl (fieldOp_wordRT _)
theorem jumpNC (aaa : Addr) : Statement (.jumpNC aaa) := of_op rfl (fieldOp_wordJA _ _)

end Sys2Proof.Laws.RowBits
end

