-- ==== Sys2Proof/Tests/Slice0.lean ====
section
/-!
SUPPORT. Tests: what the checks refuse, decoding of words written out bit by bit from spec 30_encoding.md R307, R310 and R311, single
steps from 95_test_vectors.md, and for each statement a state that meets its hypotheses.
-/
set_option Elab.async false

namespace Sys2Proof.Tests
open Sys2Proof.Machine

/-! Small cores. `INT_VECTOR` and `HWBUILD_ID` are the test values of 95_test_vectors.md. -/

/-- The EXTENDED preset. -/
def ext : Cfg := Cfg.extended 0x3FF#12 0x00#8
/-- The BASE preset. -/
def base : Cfg := Cfg.base 0x3FF#12 0x00#8
/-- EXTENDED with the three KCPSM6 instructions. -/
def extras : Cfg := ext.openGates
/-- EXTENDED in strict mode. -/
def strict : Cfg := { ext with strictDecode := true }
/-- EXTENDED with a stack of one frame, so that a full stack is a short list. -/
def shallow : Cfg := { extras with stackDepth := 1 }

/-- A core of configuration `k` after reset, with the word `w` at `pc`. -/
def core (k : Cfg) (pc : Addr) (w : InsnWord) : State :=
  { State.reset with cfg := k, pc := pc, pm := Memory.write [] pc.toNat w }

/-- The state after one step; the state itself where the step is no next state. -/
def run (s : State) : State :=
  match step s with
  | .next t => t
  | .fault _ => s
  | .refused _ => s

/-- A frame of the extended variant. -/
def frm (a : Addr) (z c : Bool) (k : Bank) (t : Bool) : Frame :=
  { addr := a, snap := some { z := z, c := c, bank := k, isInt := t } }

/-- A frame a `CALL` at `a` pushes on a state with clear flags. -/
def site (a : Addr) : Frame := frm a false false .a false

/-- The device of 20_memory.md R246. -/
def dev : Device := { id := 7, spec := ['w', '1', ',', 'r', '2', '-', '5', ':', '1', '0'], capability := .both }

/-- The state with that device attached and the router rebuilt. -/
def wired (s : State) : State := s.withDevices [dev]

/-! The checks refuse what is ill-formed (00_scope.md R16, 30_encoding.md R310). -/

theorem test_wf_stack_depth : Cfg.wf { ext with stackDepth := 0 } = false ∧ Cfg.wf shallow = true := by decide
theorem test_wf_cy_ops : (Instr.testcyReg 0 1).wf base = false ∧ (Instr.testcyImm 0 1).wf base = false ∧
    (Instr.comparecyReg 0 1).wf base = false ∧ (Instr.comparecyImm 0 1).wf base = false := by decide
theorem test_wf_indirect : (Instr.callAt 0 1).wf base = false ∧ (Instr.jumpAt 0 1).wf base = false := by decide
theorem test_wf_bank : (Instr.hwbuild 0).wf base = false ∧ Instr.regbankA.wf base = false ∧
    Instr.regbankB.wf base = false := by decide
theorem test_wf_extras : (Instr.starReg 0 1).wf ext = false ∧ (Instr.starImm 0 1).wf ext = false ∧
    (Instr.outputk 0 1).wf ext = false ∧ (Instr.loadReturn 0 1).wf ext = false ∧
    (Instr.starReg 0 1).wf { base with kcpsm6Extras := true } = false ∧ (Instr.starReg 0 1).wf extras = true := by decide

/-! Decoding: every instruction from a word written out from R307 and R310, ignored bits 0. -/

/-- The word has opcode `op` and decodes to `i` where every gate is open. -/
abbrev Decodes (w : InsnWord) (op : BitVec 6) (i : Instr) : Prop :=
  w.extractLsb' 12 6 = op ∧ decode extras w = .instr i

theorem test_decode_load_logical :
    Decodes 0b000000_1010_0101_0000#18 0b000000#6 (.loadReg 0xA#4 0x5#4) ∧
    Decodes 0b000001_1010_11000011#18 0b000001#6 (.loadImm 0xA#4 0xC3#8) ∧
    Decodes 0b000010_1010_0101_0000#18 0b000010#6 (.andReg 0xA#4 0x5#4) ∧
    Decodes 0b000011_1010_11000011#18 0b000011#6 (.andImm 0xA#4 0xC3#8) ∧
    Decodes 0b000100_1010_0101_0000#18 0b000100#6 (.orReg 0xA#4 0x5#4) ∧
    Decodes 0b000101_1010_11000011#18 0b000101#6 (.orImm 0xA#4 0xC3#8) ∧
    Decodes 0b000110_1010_0101_0000#18 0b000110#6 (.xorReg 0xA#4 0x5#4) ∧
    Decodes 0b000111_1010_11000011#18 0b000111#6 (.xorImm 0xA#4 0xC3#8) := by
  decide +kernel

theorem test_decode_arithmetic :
    Decodes 0b010000_1010_0101_0000#18 0b010000#6 (.addReg 0xA#4 0x5#4) ∧
    Decodes 0b010001_1010_11000011#18 0b010001#6 (.addImm 0xA#4 0xC3#8) ∧
    Decodes 0b010010_1010_0101_0000#18 0b010010#6 (.addcyReg 0xA#4 0x5#4) ∧
    Decodes 0b010011_1010_11000011#18 0b010011#6 (.addcyImm 0xA#4 0xC3#8) ∧
    Decodes 0b011000_1010_0101_0000#18 0b011000#6 (.subReg 0xA#4 0x5#4) ∧
    Decodes 0b011001_1010_11000011#18 0b011001#6 (.subImm 0xA#4 0xC3#8) ∧
    Decodes 0b011010_1010_0101_0000#18 0b011010#6 (.subcyReg 0xA#4 0x5#4) ∧
    Decodes 0b011011_1010_11000011#18 0b011011#6 (.subcyImm 0xA#4 0xC3#8) := by
  decide +kernel

theorem test_decode_test_compare :
    Decodes 0b001100_1010_0101_0000#18 0b001100#6 (.testReg 0xA#4 0x5#4) ∧
    Decodes 0b001101_1010_11000011#18 0b001101#6 (.testImm 0xA#4 0xC3#8) ∧
    Decodes 0b001110_1010_0101_0000#18 0b001110#6 (.testcyReg 0xA#4 0x5#4) ∧
    Decodes 0b001111_1010_11000011#18 0b001111#6 (.testcyImm 0xA#4 0xC3#8) ∧
    Decodes 0b011100_1010_0101_0000#18 0b011100#6 (.compareReg 0xA#4 0x5#4) ∧
    Decodes 0b011101_1010_11000011#18 0b011101#6 (.compareImm 0xA#4 0xC3#8) ∧
    Decodes 0b011110_1010_0101_0000#18 0b011110#6 (.comparecyReg 0xA#4 0x5#4) ∧
    Decodes 0b011111_1010_11000011#18 0b011111#6 (.comparecyImm 0xA#4 0xC3#8) := by
  decide +kernel

theorem test_decode_shift_rotate :
    Decodes 0b010100_1010_0000_0000#18 0b010100#6 (.sla 0xA#4) ∧
    Decodes 0b010100_1010_0000_0010#18 0b010100#6 (.rl 0xA#4) ∧
    Decodes 0b010100_1010_0000_0100#18 0b010100#6 (.slx 0xA#4) ∧
    Decodes 0b010100_1010_0000_0110#18 0b010100#6 (.sl0 0xA#4) ∧
    Decodes 0b010100_1010_0000_0111#18 0b010100#6 (.sl1 0xA#4) ∧
    Decodes 0b010100_1010_0000_1000#18 0b010100#6 (.sra 0xA#4) ∧
    Decodes 0b010100_1010_0000_1010#18 0b010100#6 (.srx 0xA#4) ∧
    Decodes 0b010100_1010_0000_1100#18 0b010100#6 (.rr 0xA#4) ∧
    Decodes 0b010100_1010_0000_1110#18 0b010100#6 (.sr0 0xA#4) ∧
    Decodes 0b010100_1010_0000_1111#18 0b010100#6 (.sr1 0xA#4) ∧
    Decodes 0b010100_1010_10000000#18 0b010100#6 (.hwbuild 0xA#4) := by
  decide +kernel

theorem test_decode_memory_io :
    Decodes 0b001000_1010_0101_0000#18 0b001000#6 (.inputReg 0xA#4 0x5#4) ∧
    Decodes 0b001001_1010_11000011#18 0b001001#6 (.inputImm 0xA#4 0xC3#8) ∧
    Decodes 0b001010_1010_0101_0000#18 0b001010#6 (.fetchReg 0xA#4 0x5#4) ∧
    Decodes 0b001011_1010_11000011#18 0b001011#6 (.fetchImm 0xA#4 0xC3#8) ∧
    Decodes 0b101011_11000011_0110#18 0b101011#6 (.outputk 0xC3#8 0x6#4) ∧
    Decodes 0b101100_1010_0101_0000#18 0b101100#6 (.outputReg 0xA#4 0x5#4) ∧
    Decodes 0b101101_1010_11000011#18 0b101101#6 (.outputImm 0xA#4 0xC3#8) ∧
    Decodes 0b101110_1010_0101_0000#18 0b101110#6 (.storeReg 0xA#4 0x5#4) ∧
    Decodes 0b101111_1010_11000011#18 0b101111#6 (.storeImm 0xA#4 0xC3#8) := by
  decide +kernel

theorem test_decode_bank :
    Decodes 0b010110_1010_0101_0000#18 0b010110#6 (.starReg 0xA#4 0x5#4) ∧
    Decodes 0b010111_1010_11000011#18 0b010111#6 (.starImm 0xA#4 0xC3#8) ∧
    Decodes 0b110111_00000000000_0#18 0b110111#6 (.regbankA) ∧
    Decodes 0b110111_00000000000_1#18 0b110111#6 (.regbankB) := by
  decide +kernel

theorem test_decode_control :
    Decodes 0b100000_100111100111#18 0b100000#6 (.call 0x9E7#12) ∧
    Decodes 0b100001_1010_11000011#18 0b100001#6 (.loadReturn 0xA#4 0xC3#8) ∧
    Decodes 0b100010_100111100111#18 0b100010#6 (.jump 0x9E7#12) ∧
    Decodes 0b100100_1010_0101_0000#18 0b100100#6 (.callAt 0xA#4 0x5#4) ∧
    Decodes 0b100101_000000000000#18 0b100101#6 (.ret) ∧
    Decodes 0b100110_1010_0101_0000#18 0b100110#6 (.jumpAt 0xA#4 0x5#4) ∧
    Decodes 0b110000_100111100111#18 0b110000#6 (.callZ 0x9E7#12) ∧
    Decodes 0b110001_000000000000#18 0b110001#6 (.retZ) ∧
    Decodes 0b110010_100111100111#18 0b110010#6 (.jumpZ 0x9E7#12) ∧
    Decodes 0b110100_100111100111#18 0b110100#6 (.callNZ 0x9E7#12) ∧
    Decodes 0b110101_000000000000#18 0b110101#6 (.retNZ) ∧
    Decodes 0b110110_100111100111#18 0b110110#6 (.jumpNZ 0x9E7#12) ∧
    Decodes 0b111000_100111100111#18 0b111000#6 (.callC 0x9E7#12) ∧
    Decodes 0b111001_000000000000#18 0b111001#6 (.retC) ∧
    Decodes 0b111010_100111100111#18 0b111010#6 (.jumpC 0x9E7#12) ∧
    Decodes 0b111100_100111100111#18 0b111100#6 (.callNC 0x9E7#12) ∧
    Decodes 0b111101_000000000000#18 0b111101#6 (.retNC) ∧
    Decodes 0b111110_100111100111#18 0b111110#6 (.jumpNC 0x9E7#12) := by
  decide +kernel

theorem test_decode_interrupt :
    Decodes 0b101000_00000000000_0#18 0b101000#6 (.disableInterrupt) ∧
    Decodes 0b101000_00000000000_1#18 0b101000#6 (.enableInterrupt) ∧
    Decodes 0b101001_00000000000_0#18 0b101001#6 (.returniDisable) ∧
    Decodes 0b101001_00000000000_1#18 0b101001#6 (.returniEnable) := by
  decide +kernel

/-- 30_encoding.md R311: the sentinel of `HWBUILD`; without `HAS_BANK` the word is `SLA` (95_test_vectors.md V-H1, V-H3). -/
theorem test_decode_sentinel : decode ext 0x14280#18 = .instr (.hwbuild 2) ∧ decode base 0x14280#18 = .instr (.sla 2) ∧
    decode ext 0x14270#18 = .instr (.sla 2) := by decide +kernel

/-- R306: bits no format names are ignored, here all 1. -/
theorem test_decode_ignored_bits : decode ext 0x1A12F#18 = .instr (.subcyReg 1 2) ∧ decode ext 0x143F6#18 = .instr (.sl0 3) ∧
    decode ext 0x25FFF#18 = .instr .ret ∧ decode ext 0x28FFE#18 = .instr .disableInterrupt := by decide +kernel

/-- 95_test_vectors.md V-D3, V-D4, V-D5. -/
theorem test_decode_unassigned : [0x15000#18, 0x3F000#18, 0x33000#18, 0x3B000#18, 0x23000#18, 0x27000#18, 0x2A000#18,
    0x1420D#18, 0x16010#18, 0x2B5A1#18, 0x21041#18].all
    (fun w => decide (decode ext w = .unassigned w)) = true := by decide +kernel
theorem test_decode_gated : [0x0E000#18, 0x0F000#18, 0x1E000#18, 0x1F000#18, 0x24120#18, 0x26120#18, 0x37001#18].all
    (fun w => decide (decode base w = .unassigned w)) = true := by decide +kernel

/-- 95_test_vectors.md E2: decoding the source's sample words. -/
theorem test_decode_samples : decode ext 0x00F00#18 = .instr (.loadReg 15 0) ∧ decode ext 0x077A5#18 = .instr (.xorImm 7 0xA5#8) ∧
    decode ext 0x1D0FF#18 = .instr (.compareImm 0 0xFF#8) ∧ decode ext 0x29001#18 = .instr .returniEnable := by decide +kernel

/-! What the host asks of a row. -/

theorem test_table_word : decodeTableWord 24 0x1735C = some (.starImm 3 0x5C#8) ∧ decodeTableWord 24 0x15000 = none ∧
    decodeTableWord 24 0x40000 = none := by decide +kernel
theorem test_fetch_word : (run (State.reset.withFetchWord 24 0x01A42)).x 0xA = 0x42#8 ∧
    (run (State.reset.withFetchWord 24 0x2B5A1)).log = [.portAccess .write 0x001#12 none 0x5A#8] := by decide +kernel

/-! Single steps, from Part 2 of 95_test_vectors.md (the vector's name stands before each). -/

/-- V-L1, V-L2. -/
theorem test_load : (let t := run (((core ext 0 0x00370#18).setX 7 0xA5#8).setFlags false true);
      (t.x 3, t.z, t.c, t.pc) = (0xA5#8, false, true, 0x001#12)) ∧
    (let t := run (((core ext 0 0x01300#18).setX 3 0x44#8).setFlags false true);
      (t.x 3, t.z, t.c) = (0x00#8, false, true)) := by decide +kernel
/-- V-L3, V-L4. -/
theorem test_and : (let t := run (((core ext 0 0x0300F#18).setX 0 0xF0#8).setFlags false true);
      (t.x 0, t.z, t.c) = (0x00#8, true, false)) ∧
    (let t := run ((((core ext 0 0x02010#18).setX 0 0x3C#8).setX 1 0x0F#8).setFlags true true);
      (t.x 0, t.z, t.c) = (0x0C#8, false, false)) := by decide +kernel
/-- V-L5, V-L6. -/
theorem test_or : (let t := run ((core ext 0 0x05000#18).setFlags false true); (t.x 0, t.z, t.c) = (0x00#8, true, false)) ∧
    (let t := run ((((core ext 0 0x04010#18).setX 0 0x50#8).setX 1 0x0A#8).setFlags true true);
      (t.x 0, t.z, t.c) = (0x5A#8, false, false)) := by decide +kernel
/-- V-L7, V-L8. -/
theorem test_xor : (let t := run (((core ext 0 0x06000#18).setX 0 0x5A#8).setFlags false true);
      (t.x 0, t.z, t.c) = (0x00#8, true, false)) ∧
    (let t := run (((core ext 0 0x070FF#18).setX 0 0x0F#8).setFlags true true);
      (t.x 0, t.z, t.c) = (0xF0#8, false, false)) := by decide +kernel
/-- V-A1, V-A2. -/
theorem test_add : (let t := run ((core ext 0 0x11001#18).setX 0 0xFF#8); (t.x 0, t.z, t.c) = (0x00#8, true, true)) ∧
    (let t := run ((core ext 0 0x10000#18).setX 0 0x80#8); (t.x 0, t.z, t.c) = (0x00#8, true, true)) := by decide +kernel
/-- V-A4, V-A5. -/
theorem test_addcy : (let t := run (((core ext 0 0x13000#18).setX 0 0xFF#8).setFlags false true);
      (t.x 0, t.z, t.c) = (0x00#8, true, true)) ∧
    (let t := run ((((core ext 0 0x12010#18).setX 0 0xFF#8).setX 1 0xFF#8).setFlags false true);
      (t.x 0, t.z, t.c) = (0xFF#8, false, true)) := by decide +kernel
/-- E9, V-A8. -/
theorem test_sub : (let t := run ((core ext 0 0x19107#18).setX 1 0x05#8); (t.x 1, t.z, t.c) = (0xFE#8, false, true)) ∧
    (let t := run ((((core ext 0 0x18010#18).setX 0 0x05#8).setX 1 0x05#8).setFlags false true);
      (t.x 0, t.z, t.c) = (0x00#8, true, false)) := by decide +kernel
/-- V-A10, V-A12. -/
theorem test_subcy : (let t := run ((core ext 0 0x1B000#18).setFlags false true); (t.x 0, t.z, t.c) = (0xFF#8, false, true)) ∧
    (let t := run ((((core ext 0 0x1A010#18).setX 0 0x10#8).setX 1 0x0F#8).setFlags false true);
      (t.x 0, t.z, t.c) = (0x00#8, true, false)) := by decide +kernel
/-- V-A13: the active bank only. -/
theorem test_add_bank : (let t := run ((((core ext 0 0x10000#18).setX 0 0x01#8).setBank .b).setX 0 0x80#8);
      (t.reg .b 0, t.reg .a 0, t.z, t.c) = (0x00#8, 0x01#8, true, true)) := by decide +kernel
/-- V-T1, V-T3. -/
theorem test_test : (let t := run ((core ext 0 0x0D0FF#18).setX 0 0x07#8); (t.x 0, t.z, t.c) = (0x07#8, false, true)) ∧
    (let t := run ((((core ext 0 0x0C010#18).setX 0 0x03#8).setX 1 0x03#8).setFlags true false);
      (t.z, t.c) = (false, false)) := by decide +kernel
/-- V-T4, V-T6. -/
theorem test_testcy : (let t := run (((core ext 0 0x0F0FF#18).setX 0 0x01#8).setFlags false true);
      (t.z, t.c) = (false, false)) ∧
    (let t := run (((core ext 0 0x0F000#18).setX 0 0xFF#8).setFlags false true); (t.z, t.c) = (true, true)) := by
  decide +kernel
/-- V-T8, V-T10. -/
theorem test_compare : (let t := run (((core ext 0 0x1D006#18).setX 0 0x05#8).setFlags true false);
      (t.x 0, t.z, t.c) = (0x05#8, false, true)) ∧
    (let t := run ((core ext 0 0x1C010#18).setX 1 0xFF#8); (t.z, t.c) = (false, true)) := by decide +kernel
/-- V-T13, V-T14. -/
theorem test_comparecy : (let t := run (((core ext 0 0x1F004#18).setX 0 0x05#8).setFlags false true);
      (t.z, t.c) = (true, false)) ∧
    (let t := run ((core ext 0 0x1E010#18).setFlags false true); (t.z, t.c) = (false, true)) := by decide +kernel

/-- A row of the shift table: `s2`, `Z` and `C` after the word at 0, from `s2 = v` and the carry. -/
def shifted (w : InsnWord) (v : Byte) (c : Bool) : Byte × Bool × Bool :=
  let t := run (((core ext 0 w).setX 2 v).setFlags false c)
  (t.x 2, t.z, t.c)

/-- Part 2.4, the columns 81 with carry and 80 with carry. -/
theorem test_left_shifts :
    shifted 0x14206#18 0x81#8 true = (0x02#8, false, true) ∧ shifted 0x14206#18 0x80#8 true = (0x00#8, true, true) ∧
    shifted 0x14207#18 0x81#8 true = (0x03#8, false, true) ∧ shifted 0x14207#18 0x80#8 true = (0x01#8, false, true) ∧
    shifted 0x14204#18 0x81#8 true = (0x03#8, false, true) ∧ shifted 0x14204#18 0x80#8 true = (0x00#8, true, true) ∧
    shifted 0x14200#18 0x81#8 false = (0x02#8, false, true) ∧ shifted 0x14200#18 0x80#8 true = (0x01#8, false, true) ∧
    shifted 0x14202#18 0x81#8 true = (0x03#8, false, true) ∧ shifted 0x14202#18 0x80#8 true = (0x01#8, false, true) := by
  decide +kernel
/-- Part 2.4, the columns 81 with carry, 80 with carry and 01. -/
theorem test_right_shifts :
    shifted 0x1420E#18 0x81#8 true = (0x40#8, false, true) ∧ shifted 0x1420E#18 0x01#8 false = (0x00#8, true, true) ∧
    shifted 0x1420F#18 0x81#8 true = (0xC0#8, false, true) ∧ shifted 0x1420F#18 0x01#8 false = (0x80#8, false, true) ∧
    shifted 0x1420A#18 0x81#8 true = (0xC0#8, false, true) ∧ shifted 0x1420A#18 0x80#8 true = (0xC0#8, false, false) ∧
    shifted 0x14208#18 0x81#8 false = (0x40#8, false, true) ∧ shifted 0x14208#18 0x80#8 true = (0xC0#8, false, false) ∧
    shifted 0x1420C#18 0x81#8 true = (0xC0#8, false, true) ∧ shifted 0x1420C#18 0x01#8 false = (0x80#8, false, true) := by
  decide +kernel
/-- V-H1, V-H3. -/
theorem test_hwbuild : shifted 0x14280#18 0x99#8 false = (0x00#8, true, true) ∧
    (let t := run ((core base 0 0x14280#18).setX 2 0x99#8); (t.x 2, t.z, t.c) = (0x32#8, false, true)) := by decide +kernel

/-- V-M3: the address wraps at the size of the scratch pad. -/
theorem test_store : (let t := run (((core ext 0 0x2E010#18).setX 0 0x77#8).setX 1 0x45#8);
      (t.sp, t.memRead 0x05#8, t.pc) = ([(5, 0x77#8)], 0x77#8, 0x001#12)) ∧
    (run ((core ext 0 0x2F003#18).setX 0 0x2A#8)).sp = [(3, 0x2A#8)] := by decide +kernel
/-- V-M4, V-M5. -/
theorem test_fetch : (run ((core ext 0 0x0B2FF#18).memWrite 0x3F#8 0x11#8)).x 2 = 0x11#8 ∧
    (run ((core { ext with scratchSize := .b256 } 0 0x0B2FF#18).memWrite 0xFF#8 0x11#8)).x 2 = 0x11#8 := by decide +kernel
/-- V-M6: the value is the draw of the device. -/
theorem test_input_bound : (let t := run (wired (core ext 0 0x09203#18));
      (t.x 2, t.draws, t.log) = (Config.deviceValue 0 7 11, 1,
        [.portAccess .read 0x003#12 (some { device := 7, index := 11 }) (Config.deviceValue 0 7 11)])) := by rfl
/-- V-M7. -/
theorem test_input_unbound : (let t := run (wired ((core ext 0 0x09206#18).setX 2 0x99#8));
      (t.x 2, t.draws, t.log) = (0x00#8, 0, [.portAccess .read 0x006#12 none 0x00#8])) := by decide +kernel
/-- V-M8, V-M9. -/
theorem test_output :
    (run (wired ((core ext 0 0x2D001#18).setX 0 0x5A#8))).log =
      [.portAccess .write 0x001#12 (some { device := 7, index := 0 }) 0x5A#8] ∧
    (run (wired (((core ext 0 0x2C010#18).setX 0 0x5A#8).setX 1 0x02#8))).log =
      [.portAccess .write 0x002#12 none 0x5A#8] := by decide +kernel
/-- V-M10, V-M11. -/
theorem test_outputk :
    (run (wired (core extras 0 0x2B5A1#18))).log =
      [.portAccess .write 0x001#12 (some { device := 7, index := 0 }) 0x5A#8] ∧
    (run (wired (core ext 0 0x2B5A1#18))).log = [.unassigned 0x2B5A1#18 0x000#12] := by decide +kernel

/-- V-B1, V-B3. -/
theorem test_regbank : (let t := run ((((core ext 0 0x37001#18).setX 0 0x11#8)).setInactive 0 0x22#8);
      (t.bank, t.x 0) = (.b, 0x22#8)) ∧
    (let t := run ((((core ext 0 0x37000#18).setX 0 0x11#8)).setBank .b); (t.bank, t.x 0) = (.a, 0x11#8)) := by
  decide +kernel
/-- V-B4, V-B5. -/
theorem test_star : (let t := run ((core extras 0 0x16010#18).setX 1 0x99#8); (t.reg .b 0, t.bank) = (0x99#8, .a)) ∧
    (let t := run ((core extras 0 0x1735C#18).setBank .b); (t.reg .a 3, t.reg .b 3) = (0x5C#8, 0x00#8)) := by decide +kernel

/-- V-C1, V-C14: bits 7 to 4 of the first register are ignored. -/
theorem test_jump : (run (core ext 0x010#12 0x22123#18)).pc = 0x123#12 ∧
    (run (((core ext 0 0x26120#18).setX 1 0xA3#8).setX 2 0x45#8)).pc = 0x345#12 := by decide +kernel
/-- V-C2, V-C3. -/
theorem test_jump_zero : (run ((core ext 0x004#12 0x32010#18).setFlags true false)).pc = 0x010#12 ∧
    (run (core ext 0x004#12 0x32010#18)).pc = 0x005#12 := by decide +kernel
/-- V-C4, V-C5, V-C6. -/
theorem test_jump_others : (run (core ext 0x004#12 0x36002#18)).pc = 0x002#12 ∧
    (run (core ext 0 0x3A100#18)).pc = 0x001#12 ∧ (run (core ext 0 0x3E100#18)).pc = 0x100#12 := by decide +kernel
/-- V-C7, V-C15. -/
theorem test_call : (let t := run (((core ext 0x001#12 0x20004#18).setFlags true false).setBank .b);
      (t.pc, t.stk) = (0x004#12, [frm 0x001#12 true false .b false])) ∧
    (let t := run ((core ext 0x010#12 0x24120#18).setX 1 0x03#8); (t.pc, t.stk) = (0x300#12, [site 0x010#12])) := by
  decide +kernel
/-- V-C8 with a stack of one frame, V-C9. -/
theorem test_call_condition :
    (let t := run ((core shallow 0x007#12 0x38020#18).setStk [site 0x001#12]); (t.pc, t.stk) = (0x008#12, [site 0x001#12])) ∧
    (let t := run (core base 0x007#12 0x34020#18); (t.pc, t.stk) = (0x020#12, [{ addr := 0x007#12, snap := none }])) := by
  decide +kernel
/-- V-C10, V-C11. -/
theorem test_return : (let t := run ((((core ext 0 0x25000#18).setStk [site 0x0FF#12]).setFlags true true).setBank .b);
      (t.pc, t.z, t.c, t.bank, t.stk) = (0x100#12, true, true, .b, [])) ∧
    (run ((core ext 0 0x25000#18).setStk [site 0xFFF#12])).pc = 0x000#12 := by decide +kernel
/-- V-C12, V-C13. -/
theorem test_return_condition : (let t := run (core ext 0x00A#12 0x31000#18); (t.pc, t.log) = (0x00B#12, [])) ∧
    (run ((core ext 0 0x3D000#18).setStk [site 0x010#12])).pc = 0x011#12 := by decide +kernel
/-- V-C17, V-S3. -/
theorem test_load_return : (let t := run ((core extras 0 0x21041#18).setStk [site 0x010#12]); (t.x 0, t.pc) = (0x41#8, 0x011#12)) ∧
    (let t := run ((core extras 0x001#12 0x21041#18).setX 0 0x07#8);
      (t.x 0, t.pc, t.log) = (0x00#8, 0x000#12, [.stackFault .underflow 0x001#12])) := by decide +kernel

/-- V-I1, V-I2. -/
theorem test_interrupt_enable : (let t := run (core ext 0 0x28001#18); (t.ie, t.pc) = (true, 0x001#12)) ∧
    (run ((core ext 0 0x28000#18).setIe true)).ie = false := by decide +kernel
/-- V-I5, V-I6. -/
theorem test_interrupt_entry :
    (let t := run ((((core ext 0x003#12 0x22003#18).setFlags true true).setIe true).setIrq true);
      (t.pc, t.ie, t.irq, t.z, t.c) = (0x3FF#12, false, false, true, true) ∧
        t.stk = [frm 0x003#12 true true .a true] ∧ t.log = [.interruptEntry 0x003#12]) ∧
    (let t := run (((core base 0x003#12 0x22003#18).setIe true).setIrq true);
      (t.pc, t.stk) = (0x3FF#12, [{ addr := 0x003#12, snap := none }])) := by decide +kernel
/-- V-I12 with a stack of one frame: the request is lost. -/
theorem test_interrupt_overflow :
    (let t := run ((((core shallow 0x003#12 0x22003#18).setIe true).setIrq true).setStk [site 0x001#12]);
      (t.pc, t.ie, t.irq, t.stk, t.log) = (0x000#12, false, false, [], [.stackFault .overflow 0x003#12])) := by decide +kernel
/-- V-I7, V-I10. -/
theorem test_returni_enable :
    (let t := run (((core ext 0x203#12 0x29001#18).setStk [frm 0x003#12 true true .a true]).setBank .b);
      (t.pc, t.z, t.c, t.bank, t.ie) = (0x003#12, true, true, .a, true)) ∧
    (let t := run ((core ext 0x203#12 0x29001#18).setStk [frm 0x010#12 true true .b false]);
      (t.pc, t.z, t.c, t.bank, t.ie) = (0x010#12, false, false, .a, true)) := by decide +kernel
/-- V-I8, V-I9. -/
theorem test_returni_others :
    (let t := run ((((core ext 0x203#12 0x29000#18).setStk [frm 0x003#12 true false .a true]).setFlags false true).setBank .b);
      (t.pc, t.z, t.c, t.bank, t.ie) = (0x003#12, true, false, .a, false)) ∧
    (let t := run (((core base 0x203#12 0x29001#18).setStk [{ addr := 0x003#12, snap := none }]).setFlags false true);
      (t.pc, t.z, t.c, t.ie) = (0x003#12, false, true, true)) := by decide +kernel
/-- V-I11, V-D2: the two faults of strict mode. -/
theorem test_strict_faults :
    step ((core strict 0 0x29001#18).setStk [site 0x010#12]) = .fault (.frameMismatch (site 0x010#12)) ∧
    step (core strict 0 0x15000#18) = .fault (.unassignedOpcode 0x15000#18 0x000#12) := ⟨rfl, rfl⟩
/-- V-D1, V-L9. -/
theorem test_unassigned : (let t := run (core ext 0 0x15000#18); (t.pc, t.log) = (0x001#12, [.unassigned 0x15000#18 0x000#12])) ∧
    (let t := run (((core ext 0xFFF#12 0x00000#18).setX 0 0x37#8).setFlags true true);
      (t.pc, t.x 0, t.z, t.c, t.log) = (0x000#12, 0x37#8, true, true, [])) := by decide +kernel
/-- V-S1 with a stack of one frame, V-S2. -/
theorem test_stack_faults :
    (let t := run (((((core shallow 0x001#12 0x20001#18).setStk [site 0x001#12]).setX 5 0x11#8).memWrite 0 0x77#8).setIe true);
      (t.pc, t.x 5, t.sp, t.stk, t.ie) = (0x000#12, 0x00#8, [], [], false) ∧ t.log = [.stackFault .overflow 0x001#12]) ∧
    (let t := run ((core ext 0x001#12 0x25000#18).setX 0 0x07#8);
      (t.x 0, t.pc, t.log) = (0x00#8, 0x000#12, [.stackFault .underflow 0x001#12])) := by decide +kernel

/-! The host (60_exceptions.md R820 to R831) and the router (20_memory.md R240 to R246). -/

/-- V-S5 and R823: reset, a value that does not fit, a snapshot loaded again. -/
theorem test_host : (wired ((core ext 0x123#12 0x22123#18).setX 5 0x11#8)).hostAct .reset = .done (wired
      { core ext 0 0 with pm := [(0x123, 0x22123#18)] }) ∧
    (core ext 0 0).hostAct (.setState (.pc 4096)) = .refused .illFormedValue ∧
    (core base 0 0).hostAct (.setState (.bank 1)) = .refused .illFormedValue ∧
    (core ext 0 0).load ((core ext 0x123#12 0).setX 5 0x11#8).save = some ((core ext 0x123#12 0).setX 5 0x11#8) := by
  decide +kernel
/-- Programs load whole; one that does not fit is refused. -/
theorem test_load_program : (core ext 0 0x22123#18).hostAct (.loadProgram [(0, 0x01001), (0x100, 0x01102)]) =
      .done { core ext 0 0 with pm := [(0, 0x01001#18), (0x100, 0x01102#18)] } ∧
    (core ext 0 0).hostAct (.loadProgram [(0, 0x40000)]) = .refused .illFormedProgram := by decide +kernel
/-- R131, R201: an assigned `0x00000` is not an unassigned address, and both are fetched as `0x00000`. -/
theorem test_assigned_zero :
    ((core ext 0 0x22123#18).setField (.program 0 (some 0))).map (fun t => (t.pmAt 0, t.fetch)) =
      some (some 0x00000#18, 0x00000#18) ∧
    ((core ext 0 0x22123#18).setField (.program 0 none)).map (fun t => (t.pmAt 0, t.fetch)) =
      some (none, 0x00000#18) := by decide +kernel
/-- R105: the source's registers, shadow registers and active-bank indicator, bank B active. -/
theorem test_source_terms :
    (((core ext 0 0).setBank .b).setField (.register 3 0x11)).map (fun t => (t.reg .b 3, t.reg .a 3)) =
      some (0x11#8, 0x00#8) ∧
    (((core ext 0 0).setBank .b).setField (.shadow 3 0x22)).map (fun t => (t.reg .b 3, t.reg .a 3)) =
      some (0x00#8, 0x22#8) ∧
    (((core ext 0 0).setX 3 0x11#8).setField (.activeFlag 1)).map (fun t => (t.bank, t.x 3, t.reg .a 3)) =
      some (.b, 0x11#8, 0x00#8) := by decide +kernel
/-- R202: loading a snapshot that carries program memory changes it, one that does not leaves it. -/
theorem test_snapshot_program :
    ((core ext 0 0x22123#18).load (core ext 0x005#12 0x22005#18).saveWithProgram).map (fun t => (t.pm, t.pc)) =
      some ([(5, 0x22005#18)], 0x005#12) ∧
    ((core ext 0 0x22123#18).load (core ext 0x005#12 0x22005#18).save).map (fun t => (t.pm, t.pc)) =
      some ([(0, 0x22123#18)], 0x005#12) := by decide +kernel
/-- R242, R244: what the grammar takes and what it refuses. -/
theorem test_grammar : parseSpec dev.spec = some [⟨some .write, 1, 1, 0⟩, ⟨some .read, 2, 5, 10⟩] ∧ parseSpec [] = some [] ∧
    parseSpec [' ', '9', ' ', ',', '4', '0', '9', '5'] = some [⟨none, 9, 9, 0⟩, ⟨none, 4095, 4095, 0⟩] ∧
    parseSpec ['4', '0', '9', '6'] = none ∧ parseSpec ['5', '-', '2'] = none ∧ parseSpec ['1', ','] = none ∧
    parseSpec ['x', '1'] = none := by decide +kernel
/-- R830, R831: V-C18; the conditional jump to itself is no self-jump. -/
theorem test_halted : (core ext 0x005#12 0x22005#18).halted = true ∧
    ((core ext 0x005#12 0x22005#18).setIe true).halted = false ∧ (core ext 0x005#12 0x32005#18).selfJump = false ∧
    (core ext 0x005#12 0x22005#18).atBreakpoint [0x005#12] = true := by decide +kernel

/-! For each statement with hypotheses, a state and operands that meet them (every clause, at the values where clauses meet). The
decode clauses of the instruction statements are met by the words of the `test_decode_` theorems. -/

theorem test_meets_DecodeOfEncodeIsTheInstruction : (Instr.starReg 0xF 0x0).wf extras = true ∧
    (Instr.jump 0xFFF#12).wf base = true := by decide
theorem test_meets_DecodedWordAgreesOnItsFields : decode ext 0x1001F#18 = .instr (.addReg 0 1) ∧
    decode base 0x14280#18 = .instr (.sla 2) ∧
    ((Instr.sla 2).wf ext = true ∧ 0x14280#18 &&& formatMask (.sla 2) = encode (.sla 2) ∧
      (0x14280#18).extractLsb' 0 8 = 0x80#8 ∧ decode ext 0x14280#18 ≠ .instr (.sla 2)) := by decide +kernel
theorem test_meets_UnassignedWordsAreExactlyThoseListed : decode base 0x1420D#18 = .unassigned 0x1420D#18 ∧
    listedUnassigned base 0x14 0x0D ∧ ¬listedUnassigned base 0x14 0x0C := by
  refine ⟨by decide +kernel, .inr (.inl ⟨rfl, by decide⟩), ?_⟩
  simp [listedUnassigned]
theorem test_meets_StepRunsTheDecodedInstruction :
    (let s := ((core ext 0 0).setIe true).setIrq true; s.ie = true ∧ s.irq = true) ∧
    (let s := (core ext 0 0x10010#18).setIrq true;
      ¬(s.ie = true ∧ s.irq = true) ∧ decode s.cfg (s.pmRead s.pc) = .instr (.addReg 0 1)) ∧
    (let s := (core ext 0 0x15000#18).setIe true;
      ¬(s.ie = true ∧ s.irq = true) ∧ decode s.cfg (s.pmRead s.pc) = .unassigned 0x15000#18) := by decide +kernel
theorem test_meets_UnassignedWordIsNoOpOrStrictFault :
    (let s := core strict 0 0x15000#18; ¬(s.ie = true ∧ s.irq = true) ∧
      decode s.cfg (s.pmRead s.pc) = .unassigned 0x15000#18 ∧ s.cfg.strictDecode = true) ∧
    (let s := core base 0xFFF#12 0x37001#18; ¬(s.ie = true ∧ s.irq = true) ∧
      decode s.cfg (s.pmRead s.pc) = .unassigned 0x37001#18 ∧ s.cfg.strictDecode = false) := by decide +kernel
theorem test_meets_UnassignedAddressOnlyAdvances :
    (let s := core ext 0xFFF#12 0; ¬(s.ie = true ∧ s.irq = true) ∧ Sparse.lookup s.pm s.pc.toNat = none) := by decide +kernel
theorem test_meets_InterruptEntrySavesTheContext :
    (let s := ((core shallow 0 0).setIe true).setIrq true;
      s.ie = true ∧ s.irq = true ∧ s.stk.length ≠ s.cfg.stackDepth) ∧
    (let s := (((core shallow 0 0).setIe true).setIrq true).setStk [site 0];
      s.ie = true ∧ s.irq = true ∧ s.stk.length = s.cfg.stackDepth) := by decide +kernel
theorem test_meets_PushAndPopFollowTheBounds :
    (let s := core shallow 0 0; s.stk.length ≠ s.cfg.stackDepth ∧ s.stk = []) ∧
    (let s := (core shallow 0 0).setStk [site 0]; s.stk.length = s.cfg.stackDepth ∧ s.stk = [] ++ [site 0]) := by
  decide +kernel
theorem test_meets_StackFaultAbandonsAndResets :
    (let s := (((core shallow 0 0).setStk [site 0]).setIe true).setIrq true;
      s.stk.length = s.cfg.stackDepth ∧ s.ie = true ∧ s.irq = true) ∧
    (core shallow 0 0).stk = [] ∧
    condTrue .z ((core shallow 0 0).setFlags true false) ∧ condTrue .nz (core shallow 0 0) ∧
    condTrue .c ((core shallow 0 0).setFlags false true) ∧ condTrue .nc (core shallow 0 0) := by
  exact ⟨⟨rfl, rfl, rfl⟩, rfl, rfl, rfl, rfl, rfl⟩
theorem test_meets_TrigIntSetsOnlyTheLatch : ((core ext 0 0).setIe true).ie = true := rfl
theorem test_meets_TestSetsZeroAndOddParity : ∀ s : State,
    (Instr.testReg 0 1, s.x 1, 0) ∈ [(Instr.testReg 0 1, s.x 1, 0), (.testImm 0 0xFF#8, 0xFF#8, 0),
      (.testcyReg 0 1, s.x 1, s.c.toNat), (.testcyImm 0 0xFF#8, 0xFF#8, s.c.toNat)] := fun _ => List.mem_cons_self
theorem test_meets_LeftShiftsMoveBitSevenToCarry : ∀ s : State,
    (Instr.sl0 0, false) ∈ [(Instr.sl0 0, false), (.sl1 0, true), (.slx 0, (s.x 0).getLsbD 0), (.sla 0, s.c),
      (.rl 0, (s.x 0).getLsbD 7)] ∧
    (0x14A00#18).extractLsb' 12 6 = 0x14#6 ∧ (0x14A00#18).extractLsb' 4 4 = 0#4 ∧
    (0x14A00#18).extractLsb' 0 4 = 0x0#4 := fun _ => ⟨List.mem_cons_self, by decide⟩
theorem test_meets_RightShiftsMoveBitZeroToCarry : ∀ s : State,
    (Instr.rr 0, (s.x 0).getLsbD 0) ∈ [(Instr.sr0 0, false), (.sr1 0, true), (.srx 0, (s.x 0).getLsbD 7), (.sra 0, s.c),
      (.rr 0, (s.x 0).getLsbD 0)] := fun _ => by simp
theorem test_meets_HwbuildReadsTheIdentifier :
    (0x14280#18).extractLsb' 12 6 = 0x14#6 ∧ (0x14280#18).extractLsb' 0 8 = 0x80#8 ∧ ext.hasBank = true ∧
    base.hasBank = false := by decide
theorem test_meets_StoreWritesOneScratchByte : ∀ s : State,
    (Instr.storeReg 0 0, s.x 0) ∈ [(Instr.storeReg 0 0, s.x 0), (.storeImm 0 0xFF#8, 0xFF#8)] ∧
    (Instr.storeImm 0 0xFF#8, 0xFF#8) ∈ [(Instr.storeReg 0 0, s.x 0), (.storeImm 0 0xFF#8, 0xFF#8)] := fun _ => by simp
theorem test_meets_InputTakesOneReadDispatch :
    (let s := wired (core ext 0 0); Sparse.lookup s.rt (0x05#8).toNat = some { device := 7, index := 13 } ∧ Sparse.lookup s.rt (0x06#8).toNat = none) ∧
    ∀ s : State, (Instr.inputImm 0 0x05#8, 0x05#8) ∈ [(Instr.inputReg 0 1, s.x 1), (.inputImm 0 0x05#8, 0x05#8)] :=
  ⟨by decide +kernel, fun _ => by simp⟩
theorem test_meets_OutputMakesOneWriteDispatch : ∀ s : State,
    (Instr.outputImm 0 0x01#8, 0x01#8) ∈ [(Instr.outputReg 0 1, s.x 1), (.outputImm 0 0x01#8, 0x01#8)] := fun _ => by simp
theorem test_meets_OutputkWritesAConstant : (0x2B5A1#18).extractLsb' 12 6 = 0x2B#6 ∧ extras.kcpsm6Extras = true ∧
    ext.kcpsm6Extras = false := by decide
theorem test_meets_RegbankSelectsTheBank : (core ext 0 0).cfg.hasBank = true ∧
    (Instr.regbankB, Bank.b) ∈ [(Instr.regbankA, Bank.a), (.regbankB, .b)] := by decide
theorem test_meets_StarWritesTheInactiveBank : (core extras 0 0).cfg.hasBank = true ∧ Bank.b ≠ (core extras 0 0).bank ∧
    ∀ s : State, (Instr.starImm 0 0xFF#8, 0xFF#8) ∈ [(Instr.starReg 0 1, s.x 1), (.starImm 0 0xFF#8, 0xFF#8)] :=
  ⟨rfl, by decide, fun _ => by simp⟩
theorem test_meets_JumpGoesToItsTarget :
    (let s := core ext 0x005#12 0x22005#18; decode s.cfg (s.pmRead s.pc) = .instr (.jump 0x005#12)) ∧
    (let s := core ext 0x005#12 0x22006#18; decode s.cfg (s.pmRead s.pc) = .instr (.jump 0x006#12)) := by decide +kernel
theorem test_meets_ConditionalJumpFollowsItsCondition :
    condTrue .z ((core ext 0 0).setFlags true false) ∧ ¬condTrue .z (core ext 0 0) ∧
    (let s := core ext 0x005#12 0x32005#18; decode s.cfg (s.pmRead s.pc) = .instr (jumpOn .z 0x005#12)) :=
  ⟨rfl, by simp [condTrue, core, State.reset], by decide +kernel⟩
theorem test_meets_CallPushesTheCallSite :
    (core shallow 0 0).stk.length ≠ (core shallow 0 0).cfg.stackDepth ∧
    (let s := (core shallow 0 0).setStk [site 0]; s.stk.length = s.cfg.stackDepth) := by decide +kernel
theorem test_meets_ConditionalCallFollowsItsCondition :
    (let s := core shallow 0 0; condTrue .nz s ∧ s.stk.length ≠ s.cfg.stackDepth ∧ ¬condTrue .z s) ∧
    (let s := (core shallow 0 0).setStk [site 0]; condTrue .nz s ∧ s.stk.length = s.cfg.stackDepth) :=
  ⟨⟨rfl, by decide, by simp [condTrue, core, State.reset]⟩, rfl, rfl⟩
theorem test_meets_IndirectCallJoinsTwoRegisters :
    (core shallow 0 0).stk.length ≠ (core shallow 0 0).cfg.stackDepth ∧
    (let s := (core shallow 0 0).setStk [site 0]; s.stk.length = s.cfg.stackDepth) := by decide +kernel
theorem test_meets_ReturnGoesPastTheCallSite : ((core ext 0 0).setStk [site 0xFFF#12]).stk = [] ++ [site 0xFFF#12] ∧
    (core ext 0 0).stk = [] := ⟨rfl, rfl⟩
theorem test_meets_ConditionalReturnFollowsItsCondition :
    (let s := (core ext 0 0).setStk [site 0xFFF#12]; condTrue .nc s ∧ s.stk = [] ++ [site 0xFFF#12]) ∧
    (let s := core ext 0 0; condTrue .nc s ∧ s.stk = [] ∧ ¬condTrue .c s) :=
  ⟨⟨rfl, rfl⟩, rfl, rfl, by simp [condTrue, core, State.reset]⟩
theorem test_meets_LoadReturnLoadsAndReturns : ((core extras 0 0).setStk [site 0xFFF#12]).stk = [] ++ [site 0xFFF#12] ∧
    (core extras 0 0).stk = [] := ⟨rfl, rfl⟩
theorem test_meets_CallThenReturnComesBack :
    (let s := core shallow 0xFFF#12 0; s.stk.length < s.cfg.stackDepth ∧
      exec (.call 0x010#12) s = .next ((s.setStk [site 0xFFF#12]).setPc 0x010#12)) := ⟨by decide, rfl⟩
theorem test_meets_InterruptControlSetsOnlyTheEnable :
    (Instr.enableInterrupt, true) ∈ [(Instr.disableInterrupt, false), (.enableInterrupt, true)] ∧
    ((core ext 0 0).setIrq true).irq = true := by decide
theorem test_meets_ReturniRestoresTheInterruptContext :
    (let s := (core ext 0 0).setStk [frm 0xFFF#12 true true .b true];
      (Instr.returniDisable, false) ∈ [(Instr.returniDisable, false), (.returniEnable, true)] ∧ s.cfg.hasBank = true ∧
      s.stk = [] ++ [frm 0xFFF#12 true true .b true] ∧
      (frm 0xFFF#12 true true .b true).snap = some { z := true, c := true, bank := .b, isInt := true }) := by
  decide +kernel
theorem test_meets_ReturniOnOtherFramesKeepsTheFlags :
    (let s := (core base 0 0).setStk [site 0]; s.stk = [] ++ [site 0] ∧ s.cfg.hasBank = false) ∧
    (let s := (core ext 0 0).setStk [site 0];
      s.stk = [] ++ [site 0] ∧ (site 0).isInt = false ∧ s.cfg.strictDecode = false) ∧
    (let s := (core strict 0 0).setStk [site 0];
      s.stk = [] ++ [site 0] ∧ s.cfg.hasBank = true ∧ (site 0).isInt = false ∧ s.cfg.strictDecode = true) := by
  decide +kernel
theorem test_meets_ReturniUndoesTheInterruptEntry :
    (let s := ((core shallow 0x003#12 0x22003#18).setIe true).setIrq true; let t := run s; let u := t.setFlags true false;
      s.cfg.hasBank = true ∧ s.ie = true ∧ s.irq = true ∧ s.stk.length < s.cfg.stackDepth ∧ step s = .next t ∧
      u.cfg = t.cfg ∧ u.stk = t.stk) := ⟨rfl, rfl, rfl, by decide, rfl, rfl, rfl⟩

/-- A core with a program, a device, a frame and a byte in the scratch pad. -/
def busy : State := (((wired (core shallow 0x003#12 0x20005#18)).setStk [site 0x001#12]).memWrite 0x3F#8 0x11#8).setX 1 0x22#8

theorem test_busy_inv : busy.Inv where
  cfgLegal := by decide
  pmCanonical := by decide
  pmBound := by decide
  spCanonical := by decide
  spBound := by decide
  stackBound := by decide
  frameShape := by decide
  baseBank := by decide
  specsLegal := by decide +kernel
  deviceNames := by decide
  readTable := rfl
  writeTable := rfl

theorem test_meets_StepKeepsTheInvariant : busy.Inv ∧ step busy = .next (run busy) := ⟨test_busy_inv, rfl⟩
theorem test_meets_HostActionsKeepTheInvariant : busy.Inv ∧
    busy.hostAct (.detachDevice 7) = .done (busy.withDevices []) ∧
    busy.hostAct (.setState (.scratch 63 0xFF)) = .done { busy with sp := [(63, 0xFF#8)] } :=
  ⟨test_busy_inv, by decide +kernel, by decide +kernel⟩
theorem test_meets_StepNeverWritesTheParameters : step busy = .next (run busy) := rfl
theorem test_meets_StepNeverRaisesARequest :
    (let s := (busy.setIrq true).setIe true; step s = .next (run s) ∧ (run s).irq = false) ∧
    (let s := busy.setIrq true; step s = .next (run s)) := ⟨⟨rfl, rfl⟩, rfl⟩
theorem test_meets_StepOnlyAppendsToTheLog : step busy = .next (run busy) ∧
    (run busy).log = [.stackFault .overflow 0x003#12] := ⟨rfl, rfl⟩
theorem test_meets_OnlyStarReachesTheInactiveBank : (∀ x y, Instr.addReg 0 1 ≠ .starReg x y) ∧
    (∀ x kk, Instr.addReg 0 1 ≠ .starImm x kk) ∧ Bank.b ≠ busy.activeBank ∧
    exec (.addReg 0 1) busy = .next ((busy.setX 0 0x22#8).setFlags false false).advance ∧
    (let s := (core strict 0 0).setStk [site 0]; exec .returniEnable s = .fault (.frameMismatch (site 0))) :=
  ⟨by simp, by simp, by decide +kernel, rfl, rfl⟩
theorem test_meets_HaltedSelfJumpStaysPut : (core base 0xFFF#12 0x22FFF#18).halted = true := by decide +kernel
theorem test_meets_RouterWorkedExample :
    dev.spec = ['w', '1', ',', 'r', '2', '-', '5', ':', '1', '0'] ∧ dev.capability = .both ∧
    (wired (core ext 0 0)).rt = buildTable .read [dev] := ⟨rfl, rfl, rfl⟩
theorem test_meets_LastDeviceAndTokenWin :
    Sparse.lookup (buildTable .read [dev, { id := 9, spec := ['5', ',', '5', ':', '3'], capability := .both }]) 5 =
      some { device := 9, index := 3 } ∧
    Sparse.lookup (buildTable .read [dev, { id := 9, spec := ['5'], capability := .write }]) 5 =
      some { device := 7, index := 13 } := by decide +kernel
theorem test_meets_SnapshotLoadGivesBackTheState : busy.Inv ∧ (core shallow 0 0).cfg = busy.cfg ∧ busy.cfg.hasBank = true :=
  ⟨test_busy_inv, rfl, rfl⟩
/-- Each kind of field, at the least value that does not fit and at the greatest that does. -/
theorem test_meets_IllFormedHostActionsAreRefused_fields :
    (FieldValue.pc 4096).ill ext ∧ ¬(FieldValue.pc 4095).ill ext ∧
    (FieldValue.regA 16 0).ill ext ∧ (FieldValue.register 15 256).ill ext ∧ ¬(FieldValue.regA 15 255).ill base ∧
    (FieldValue.regB 0 0).ill base ∧ (FieldValue.shadow 0 256).ill ext ∧ ¬(FieldValue.shadow 15 255).ill ext ∧
    (FieldValue.bank 1).ill base ∧ (FieldValue.activeFlag 2).ill ext ∧ ¬(FieldValue.activeFlag 1).ill ext ∧
    (FieldValue.scratch 64 0).ill ext ∧ ¬(FieldValue.scratch 63 255).ill ext ∧
    (FieldValue.z 2).ill ext ∧ (FieldValue.c 2).ill ext ∧ (FieldValue.ie 2).ill ext ∧ ¬(FieldValue.irq 1).ill ext ∧
    (FieldValue.program 4096 none).ill ext ∧ (FieldValue.program 0 (some 262144)).ill ext ∧
    ¬(FieldValue.program 4095 (some 262143)).ill ext := by simp [FieldValue.ill, ext, base, Cfg.extended, Cfg.base,
      ScratchSize.bytes]
/-- Stacks: one frame too many, a frame of the wrong shape, a bank selector too wide, and one that fits. -/
theorem test_meets_IllFormedHostActionsAreRefused_stacks :
    illStack shallow [⟨0, some ⟨0, 0, 0, 0⟩⟩, ⟨0, some ⟨0, 0, 0, 0⟩⟩] ∧ illStack shallow [⟨0, none⟩] ∧
    illStack shallow [⟨0, some ⟨0, 0, 2, 0⟩⟩] ∧ illStack base [⟨4096, none⟩] ∧
    ¬illStack shallow [⟨4095, some ⟨1, 1, 1, 1⟩⟩] := by
  simp [illStack, RawFrame.ill, shallow, extras, ext, base, Cfg.openGates, Cfg.extended, Cfg.base]
/-- Snapshots and programs: one of a base core in an extended one, one with a word too wide, and ones that fit. -/
theorem test_meets_IllFormedHostActionsAreRefused_whole :
    (core base 0 0).save.ill ext ∧ { busy.save with program := some [(0, 262144)] : SavedState }.ill shallow ∧
    (core ext 0 0).hostAct (.loadSnapshot (core base 0 0).save) = .refused .illFormedSnapshot ∧
    illWords [(4096, 0)] ∧ ¬illWords [(4095, 262143)] := by
  refine ⟨.inr (.inl (by decide)), .inr (.inr (.inr (.inr (.inr (.inr (.inr (.inr (.inr (.inr ⟨_, rfl, ?_⟩))))))))), ?_, ?_, ?_⟩
  · simp [illWords]
  · decide +kernel
  · simp [illWords]
  · simp [illWords]
/-- Attach and edit: a spec the grammar takes under a new name, one it refuses, and an attached name. -/
theorem test_meets_IllFormedHostActionsAreRefused_devices :
    parseSpec dev.spec ≠ none ∧ parseSpec ['4', '0', '9', '6'] = none ∧ (∀ e ∈ (core ext 0 0).devices, e.id ≠ dev.id) ∧
    (∃ e ∈ busy.devices, e.id = 7) ∧ busy.hostAct (.editSpec 7 ['4', '0', '9', '6']) = .refused .malformedSpec := by
  refine ⟨by decide +kernel, by decide +kernel, by simp [core, State.reset], ⟨dev, List.mem_cons_self, rfl⟩, by decide +kernel⟩

end Sys2Proof.Tests
end

namespace Sys2Proof.Machine

/-! ## Power-on and the stack -/

/-- Settles O11: each field is read off `State.reset`, registers and scratch-pad locations at their default. -/
theorem resetStateIsAllZero : Obligations.ResetStateIsAllZero := by
  have regs : ∀ j q, State.reset.reg j q = 0x00#8 := by
    intro j q
    cases j <;> exact RegFile.get_zeroRegs q
  exact ⟨rfl, regs, rfl, fun _ => rfl, rfl, rfl, rfl, rfl, rfl, rfl, fun _ => rfl, rfl⟩

/-- Settles O9, from what `Push` and `Pop` can do. -/
theorem pushAndPopFollowTheBounds : Obligations.PushAndPopFollowTheBounds := by
  intro s f
  refine ⟨fun hfull => ?_, fun hroom => ?_, s.pop_empty, fun rest hstk => ⟨_, s.pop_concat hstk, rfl⟩⟩
  · rcases s.push_cases f with ⟨_, e⟩ | ⟨hroom, _⟩
    · exact e
    · exact absurd hfull hroom
  · rcases s.push_cases f with ⟨hfull, _⟩ | ⟨_, e⟩
    · exact absurd hfull hroom
    · exact ⟨_, e, rfl⟩

/-- Settles O42: with room the call pushes the call site, and the return pops that very frame. -/
theorem callThenReturnComesBack : Obligations.CallThenReturnComesBack := by
  intro s t a hroom hcall
  have ht : t = (s.setStk (s.stk ++ [s.callFrame])).setPc a := by
    rcases s.callTo_cases a with ⟨hfull, _⟩ | ⟨_, e⟩
    · omega
    · rw [← e]; cases hcall; rfl
  obtain ⟨rest, f, hstk, hret⟩ : ∃ rest f, t.stk = rest ++ [f] ∧
      t.returnToCaller = (t.setStk rest).setPc (f.addr + 1#12) := by
    rcases t.returnToCaller_cases with ⟨hempty, _⟩ | h
    · simp [ht] at hempty
    · exact h
  obtain ⟨rfl, rfl⟩ : s.stk = rest ∧ s.callFrame = f := by
    simpa [ht] using hstk
  refine ⟨_, congrArg Host.Outcome.next hret, ?_, rfl, ?_, ?_⟩
  · simp [State.callFrame, State.frame, BitVec.toNat_add]
  · subst ht; exact ⟨rfl, fun j _ => by cases j <;> rfl⟩
  · subst ht; exact ⟨rfl, rfl⟩

/-! ## What an instruction reads

Two states that agree on everything an instruction reads undergo the same effect. That no instruction reads a part of the
state is then one fact about each effect: it commutes with a change of that part. -/

/-- The states agree on all an instruction reads: configuration, write table and read table, `pc`, flags, bank selector,
registers of the active bank, scratch pad, stack and the number of the next draw. -/
structure SameReads (s u : State) : Prop where
  cfg : u.cfg = s.cfg
  rt : u.rt = s.rt
  wt : u.wt = s.wt
  pc : u.pc = s.pc
  z : u.z = s.z
  c : u.c = s.c
  bank : u.bank = s.bank
  x : ∀ r, u.x r = s.x r
  sp : u.sp = s.sp
  stk : u.stk = s.stk
  draws : u.draws = s.draws

/-- What instruction `i` does once its reads are made: the writes, with the values they write. -/
inductive Effect (i : Instr) where
  | alu (x : Reg) (v : Alu)
  | plain (x : Reg) (v : Byte)
  | flags (v : Alu)
  | store (a v : Byte)
  | input (e : Event) (draws : Nat) (x : Reg) (v : Byte)
  | output (e : Event)
  | bank (k : Bank)
  | star (x : Reg) (v : Byte) (h : (∃ a y, i = .starReg a y) ∨ ∃ a kk, i = .starImm a kk)
  | advance
  | jump (a : Addr)
  | stack (l : List Frame) (a : Addr)
  | stackLoad (l : List Frame) (x : Reg) (v : Byte) (a : Addr)
  | stackEnable (l : List Frame) (a : Addr) (b : Bool)
  | stackRestore (l : List Frame) (a : Addr) (z c : Bool) (k : Bank) (b : Bool)
  | enable (b : Bool)
  | stackFault (k : StackFaultKind)

/-- The state after the writes of an effect. -/
def Effect.apply {i : Instr} : Effect i → State → State
  | .alu x v, s => ((s.setX x v.r).setFlags v.z v.c).advance
  | .plain x v, s => (s.setX x v).advance
  | .flags v, s => (s.setFlags v.z v.c).advance
  | .store a v, s => (s.memWrite a v).advance
  | .input e n x v, s => { (s.setX x v).advance with log := s.log ++ [e], draws := n }
  | .output e, s => (s.record e).advance
  | .bank k, s => (s.setBank k).advance
  | .star x v _, s => (s.setInactive x v).advance
  | .advance, s => s.advance
  | .jump a, s => s.setPc a
  | .stack l a, s => (s.setStk l).setPc a
  | .stackLoad l x v a, s => ((s.setX x v).setStk l).setPc a
  | .stackEnable l a b, s => ((s.setStk l).setPc a).setIe b
  | .stackRestore l a z c k b, s => ((((s.setStk l).setPc a).setFlags z c).setBank k).setIe b
  | .enable b, s => (s.setIe b).advance
  | .stackFault k, s => s.stackFault k s.pc

/-- Two answers of instruction `i`, from states `s` and `u`: the same effect, or the same fault. -/
inductive SameEffect (i : Instr) (s u : State) : Result → Result → Prop
  | next (a : Effect i) : SameEffect i s u (.next (a.apply s)) (.next (a.apply u))
  | fault (e : Fault) : SameEffect i s u (.fault e) (.fault e)

namespace SameEffect

section
variable {i : Instr} {s u : State}

theorem aluWrite {x : Reg} {v w : Alu} (hv : w = v) : SameEffect i s u (s.aluWrite x v) (u.aluWrite x w) :=
  hv ▸ .next (.alu x w)

theorem aluFlags {v w : Alu} (hv : w = v) : SameEffect i s u (s.aluFlags v) (u.aluFlags w) :=
  hv ▸ .next (.flags w)

theorem setX {x : Reg} {v w : Byte} (hv : w = v) :
    SameEffect i s u (.next (s.setX x v).advance) (.next (u.setX x w).advance) :=
  hv ▸ .next (.plain x w)

theorem setPc {a a' : Addr} (ha : a' = a) : SameEffect i s u (.next (s.setPc a)) (.next (u.setPc a')) :=
  ha ▸ .next (.jump a')

end

end SameEffect

/-- The two answers, told apart. -/
theorem SameEffect.next_or_fault {i : Instr} {s u : State} {p q : Result} (h : SameEffect i s u p q) :
    (∃ a : Effect i, p = .next (a.apply s) ∧ q = .next (a.apply u)) ∨ ∃ e, p = .fault e ∧ q = .fault e := by
  cases h with
  | next a => exact .inl ⟨a, rfl, rfl⟩
  | fault e => exact .inr ⟨e, rfl, rfl⟩

/-- Restoring a frame sets the same flags and bank selector, or nothing in either state. -/
theorem State.restore_same {s u : State} (h : u.cfg = s.cfg) (f : Frame) :
    (s.restore f = s ∧ u.restore f = u) ∨
      ∃ z c k, s.restore f = (s.setFlags z c).setBank k ∧ u.restore f = (u.setFlags z c).setBank k := by
  unfold State.restore
  rw [h]
  cases f.snap with
  | none => exact .inl ⟨rfl, rfl⟩
  | some p =>
    dsimp only
    split
    · exact .inr ⟨_, _, _, rfl, rfl⟩
    · exact .inl ⟨rfl, rfl⟩

namespace SameReads

section
variable {s u : State}

theorem opB (h : SameReads s u) (b : OpB) : u.opB b = s.opB b := by
  cases b with
  | reg y => exact h.x y
  | imm kk => rfl

theorem memRead (h : SameReads s u) (a : Byte) : u.memRead a = s.memRead a := State.memRead_congr h.cfg h.sp a

theorem indirectTarget (h : SameReads s u) (x y : Reg) : u.indirectTarget x y = s.indirectTarget x y := by
  simp [State.indirectTarget, h.x]

theorem holds (h : SameReads s u) (k : Cond) : k.holds u = k.holds s := by
  cases k <;> simp [Cond.holds, h.z, h.c]

theorem callFrame (h : SameReads s u) : u.callFrame = s.callFrame := by
  simp [State.callFrame, State.frame, h.cfg, h.pc, h.z, h.c, h.bank]

/-- A port read answers the same byte and logs the same dispatch. -/
theorem portRead (h : SameReads s u) (p : Byte) :
    ∃ v e n, s.portRead p = (v, { s with log := s.log ++ [e], draws := n }) ∧
      u.portRead p = (v, { u with log := u.log ++ [e], draws := n }) := by
  rcases s.portRead_cases p with ⟨r, hr, e⟩ | ⟨hr, e⟩
  · refine ⟨_, _, s.draws + 1, e, ?_⟩
    simp [State.portRead, State.nextDraw, State.record, h.rt, hr, h.draws]
  · refine ⟨_, _, s.draws, e, ?_⟩
    simp [State.portRead, State.record, h.rt, hr, h.draws]

/-- A push of the call frame fails in both states or leaves the same stack. -/
theorem push (h : SameReads s u) :
    (s.push s.callFrame = none ∧ u.push u.callFrame = none) ∨
      (s.push s.callFrame = some (s.setStk (s.stk ++ [s.callFrame])) ∧
        u.push u.callFrame = some (u.setStk (s.stk ++ [s.callFrame]))) := by
  have hu : u.push u.callFrame =
      if s.stk.length = s.cfg.stackDepth then none else some (u.setStk (s.stk ++ [s.callFrame])) := by
    rw [State.push, h.stk, h.cfg, h.callFrame]
  rcases s.push_cases s.callFrame with ⟨hfull, e⟩ | ⟨hroom, e⟩
  · exact .inl ⟨e, by rw [hu, if_pos hfull]⟩
  · exact .inr ⟨e, by rw [hu, if_neg hroom]⟩

/-- A pop fails in both states or takes the same frame. -/
theorem pop (h : SameReads s u) :
    (s.pop = none ∧ u.pop = none) ∨
      ∃ rest f, s.pop = some (f, s.setStk rest) ∧ u.pop = some (f, u.setStk rest) := by
  rcases s.pop_cases with ⟨hstk, e⟩ | ⟨rest, f, hstk, e⟩
  · exact .inl ⟨e, u.pop_empty (h.stk.trans hstk)⟩
  · exact .inr ⟨rest, f, e, u.pop_concat (h.stk.trans hstk)⟩

end

/-! Each meaning, from two states that agree on its reads. -/

section
variable {i : Instr} {s u : State} (h : SameReads s u)
include h

theorem storeScratch (x : Reg) (b : OpB) :
    SameEffect i s u (Machine.storeScratch x b s) (Machine.storeScratch x b u) := by
  unfold Machine.storeScratch
  rw [h.opB, h.x]
  exact .next (.store _ _)

theorem inputPort (x : Reg) (b : OpB) : SameEffect i s u (Machine.inputPort x b s) (Machine.inputPort x b u) := by
  unfold Machine.inputPort
  rw [h.opB]
  obtain ⟨v, e, n, hs, hu⟩ := h.portRead (s.opB b)
  rw [hs, hu]
  exact .next (.input e n x v)

theorem portWrite {p v w : Byte} (hv : w = v) :
    SameEffect i s u (.next (s.portWrite p v).advance) (.next (u.portWrite p w).advance) := by
  subst hv
  unfold State.portWrite
  rw [h.wt]
  exact .next (.output _)

theorem outputPort (x : Reg) (b : OpB) : SameEffect i s u (Machine.outputPort x b s) (Machine.outputPort x b u) := by
  unfold Machine.outputPort
  rw [h.opB]
  exact h.portWrite (h.x x)

theorem star (hi : (∃ a y, i = .starReg a y) ∨ ∃ a kk, i = .starImm a kk) (x : Reg) (b : OpB) :
    SameEffect i s u (Machine.star x b s) (Machine.star x b u) := by
  unfold Machine.star
  rw [h.opB]
  exact .next (.star x _ hi)

theorem callTo {a a' : Addr} (ha : a' = a) : SameEffect i s u (.next (s.callTo a)) (.next (u.callTo a')) := by
  subst ha
  unfold State.callTo
  rcases h.push with ⟨hs, hu⟩ | ⟨hs, hu⟩ <;> rw [hs, hu]
  · exact .next (.stackFault _)
  · exact .next (.stack _ _)

theorem returnToCaller : SameEffect i s u (.next s.returnToCaller) (.next u.returnToCaller) := by
  unfold State.returnToCaller
  rcases h.pop with ⟨hs, hu⟩ | ⟨rest, f, hs, hu⟩ <;> rw [hs, hu]
  · exact .next (.stackFault _)
  · exact .next (.stack _ _)

theorem loadReturn (x : Reg) (kk : Byte) : SameEffect i s u (execLoadReturn x kk s) (execLoadReturn x kk u) := by
  unfold execLoadReturn
  rcases h.pop with ⟨hs, hu⟩ | ⟨rest, f, hs, hu⟩ <;> rw [hs, hu]
  · exact .next (.stackFault _)
  · exact .next (.stackLoad _ _ _ _)

theorem returnFromInterrupt (b : Bool) :
    SameEffect i s u (s.returnFromInterrupt b) (u.returnFromInterrupt b) := by
  unfold State.returnFromInterrupt
  rcases h.pop with ⟨hs, hu⟩ | ⟨rest, f, hs, hu⟩ <;> rw [hs, hu]
  · exact .next (.stackFault _)
  · dsimp only
    rw [h.cfg]
    split
    · exact .fault _
    · have hcfg : ((u.setStk rest).setPc f.addr).cfg = ((s.setStk rest).setPc f.addr).cfg := h.cfg
      rcases State.restore_same hcfg f with ⟨hs, hu⟩ | ⟨z, c, k, hs, hu⟩ <;> rw [hs, hu]
      · exact .next (.stackEnable _ _ _)
      · exact .next (.stackRestore _ _ _ _ _ _)

/-- A condition has one value in both states, so both take the branch or both go on. -/
theorem branch (k : Cond) {t v : State} (htv : SameEffect i s u (.next t) (.next v)) :
    SameEffect i s u (.next (if k.holds s then t else s.advance)) (.next (if k.holds u then v else u.advance)) := by
  rw [h.holds]
  split
  · exact htv
  · exact .next .advance

/-- From states that agree on what an instruction reads, every instruction has the same effect. -/
theorem exec_same (i : Instr) : SameEffect i s u (exec i s) (exec i u) := by
  cases i with
  | andReg | andImm | orReg | orImm | xorReg | xorImm | addReg | addImm | subReg | subImm =>
    exact .aluWrite (by rw [h.x, h.opB])
  | addcyReg | addcyImm | subcyReg | subcyImm => exact .aluWrite (by rw [h.x, h.opB, h.c])
  | sl0 | sl1 | slx | rl | sr0 | sr1 | srx | rr => exact .aluWrite (by rw [h.x])
  | sla | sra => exact .aluWrite (by rw [h.x, h.c])
  | hwbuild => exact .aluWrite (by rw [h.cfg])
  | testReg | testImm | compareReg | compareImm => exact .aluFlags (by rw [h.x, h.opB])
  | testcyReg | testcyImm | comparecyReg | comparecyImm => exact .aluFlags (by rw [h.x, h.opB, h.c])
  | loadReg | loadImm => exact .setX (h.opB _)
  | fetchReg | fetchImm => exact .setX (by rw [h.opB, h.memRead])
  | storeReg | storeImm => exact h.storeScratch _ _
  | inputReg | inputImm => exact h.inputPort _ _
  | outputReg | outputImm => exact h.outputPort _ _
  | outputk => exact h.portWrite rfl
  | starReg => exact h.star (.inl ⟨_, _, rfl⟩) _ _
  | starImm => exact h.star (.inr ⟨_, _, rfl⟩) _ _
  | regbankA | regbankB => exact .next (.bank _)
  | disableInterrupt | enableInterrupt => exact .next (.enable _)
  | returniDisable | returniEnable => exact h.returnFromInterrupt _
  | loadReturn => exact h.loadReturn _ _
  | jump => exact .setPc rfl
  | jumpAt => exact .setPc (h.indirectTarget _ _)
  | jumpZ | jumpNZ | jumpC | jumpNC => exact h.branch _ (.setPc rfl)
  | call => exact h.callTo rfl
  | callAt => exact h.callTo (h.indirectTarget _ _)
  | callZ | callNZ | callC | callNC => exact h.branch _ (h.callTo rfl)
  | ret => exact h.returnToCaller
  | retZ | retNZ | retC | retNC => exact h.branch _ h.returnToCaller

end

end SameReads

theorem SameReads.refl (s : State) : SameReads s s :=
  ⟨rfl, rfl, rfl, rfl, rfl, rfl, rfl, fun _ => rfl, rfl, rfl, rfl⟩

/-- Every next state of `exec` is the state after one of the effects. -/
theorem exec_effect {i : Instr} {s t : State} (h : exec i s = .next t) : ∃ a : Effect i, t = a.apply s := by
  rcases ((SameReads.refl s).exec_same i).next_or_fault with ⟨a, hs, _⟩ | ⟨e, hs, _⟩ <;> rw [h] at hs <;> cases hs
  exact ⟨a, rfl⟩

/-! ## The interrupt bits -/

theorem sameReads_maskInt (s : State) : SameReads s s.maskInt :=
  ⟨rfl, rfl, rfl, rfl, rfl, rfl, rfl, fun _ => rfl, rfl, rfl, rfl⟩

/-- An effect writes the interrupt bits without reading them. -/
theorem Effect.maskInt_apply {i : Instr} (a : Effect i) (s : State) : (a.apply s.maskInt).maskInt = (a.apply s).maskInt := by
  cases a <;> rfl

theorem maskResult_exec_maskInt (i : Instr) (s : State) : maskResult (exec i s.maskInt) = maskResult (exec i s) := by
  rcases ((sameReads_maskInt s).exec_same i).next_or_fault with ⟨a, hs, hu⟩ | ⟨e, hs, hu⟩
  · rw [hs, hu]; exact congrArg Host.Outcome.next (a.maskInt_apply s)
  · rw [hs, hu]

/-- Settles O52: with the interrupt bits put to 0, both states are the same state. -/
theorem instructionsNeverReadTheInterruptBits : Obligations.InstructionsNeverReadTheInterruptBits := by
  intro i s e r
  calc maskResult (exec i ((s.setIe e).setIrq r))
      = maskResult (exec i ((s.setIe e).setIrq r).maskInt) := (maskResult_exec_maskInt i _).symm
    _ = maskResult (exec i s) := maskResult_exec_maskInt i s

/-- A stack fault leaves the power-on state in the core of `s`, with one log entry more (60_exceptions.md R804). -/
theorem resetByStackFault_stackFault (s : State) (k : StackFaultKind) (a : Addr) :
    ResetByStackFault s (s.stackFault k a) k a :=
  ⟨rfl, fun j _ => by cases j <;> rfl, rfl, fun _ => rfl, rfl, rfl, rfl, rfl, rfl, rfl, rfl, rfl, rfl, rfl, rfl, rfl⟩

/-! ## The inactive bank -/

section
variable {i : Instr} {s : State} {k : Bank}

theorem State.activeBank_putBank (s : State) (k : Bank) (f : RegFile) : (s.putBank k f).activeBank = s.activeBank := by
  cases k <;> rfl

theorem State.reg_putBank_of_ne (s : State) {j k : Bank} (hjk : j ≠ k) (f : RegFile) (q : Reg) :
    (s.putBank k f).reg j q = s.reg j q := by
  cases j <;> cases k
  case a.b | b.a => rfl
  all_goals exact absurd rfl hjk

theorem State.reg_setX_of_ne (s : State) (hk : k ≠ s.activeBank) (x : Reg) (v : Byte) (q : Reg) :
    (s.setX x v).reg k q = s.reg k q := by
  simp [State.reg_setX, hk]

/-- A write to the active bank and one to the other bank do not see each other. -/
theorem State.setX_putBank (hk : k ≠ s.activeBank) (f : RegFile) (x : Reg) (v : Byte) :
    (s.putBank k f).setX x v = (s.setX x v).putBank k f := by
  cases k <;> cases hb : s.activeBank
  case a.b | b.a =>
    unfold State.setX
    rw [s.activeBank_putBank, hb]
    rfl
  all_goals exact absurd hb.symm hk

theorem sameReads_putBank (hk : k ≠ s.activeBank) (f : RegFile) : SameReads s (s.putBank k f) where
  cfg := by cases k <;> rfl
  rt := by cases k <;> rfl
  wt := by cases k <;> rfl
  pc := by cases k <;> rfl
  z := by cases k <;> rfl
  c := by cases k <;> rfl
  bank := by cases k <;> rfl
  x r := by
    unfold State.x
    rw [s.activeBank_putBank, s.reg_putBank_of_ne hk.symm]
  sp := by cases k <;> rfl
  stk := by cases k <;> rfl
  draws := by cases k <;> rfl

/-- The reset of a stack fault forgets what the banks held. -/
theorem State.stackFault_putBank (s : State) (k : Bank) (f : RegFile) (e : StackFaultKind) (a : Addr) :
    (s.putBank k f).stackFault e a = s.stackFault e a := by
  cases k <;> rfl

/-- An effect but `STAR`'s leaves the inactive bank as it is, whatever it holds, or it is the reset of a stack fault. -/
theorem Effect.apply_putBank (a : Effect i) (hstar : ¬((∃ x y, i = .starReg x y) ∨ ∃ x kk, i = .starImm x kk))
    (hk : k ≠ s.activeBank) (f : RegFile) :
    (∃ e, a = .stackFault e) ∨
    (a.apply (s.putBank k f) = (a.apply s).putBank k f ∧ ∀ q, (a.apply s).reg k q = s.reg k q) := by
  cases a with
  | stackFault e => exact .inl ⟨e, rfl⟩
  | star x v h => exact absurd h hstar
  | alu | plain | input | stackLoad =>
    refine .inr ⟨?_, fun q => s.reg_setX_of_ne hk _ _ q⟩
    simp only [Effect.apply, State.setX_putBank hk]
    cases k <;> rfl
  | _ => exact .inr (by cases k <;> exact ⟨rfl, fun _ => rfl⟩)

/-- Every answer of an instruction but `STAR`: a reset by a stack fault whatever the inactive bank holds, a fault whatever it
holds, or a next state with the inactive bank as it was, also where it was another. -/
theorem exec_inactiveBank (hstar : ¬((∃ x y, i = .starReg x y) ∨ ∃ x kk, i = .starImm x kk)) (hk : k ≠ s.activeBank)
    (f : RegFile) :
    (∃ e, exec i s = .next (s.stackFault e s.pc) ∧ exec i (s.putBank k f) = .next (s.stackFault e s.pc)) ∨
    (∃ t, exec i s = .next t ∧ exec i (s.putBank k f) = .next (t.putBank k f) ∧ ∀ q, t.reg k q = s.reg k q) ∨
    (∃ e, exec i s = .fault e ∧ exec i (s.putBank k f) = .fault e) := by
  have reads := sameReads_putBank hk f
  rcases (reads.exec_same i).next_or_fault with ⟨a, hs, hu⟩ | hfault
  · rcases a.apply_putBank hstar hk f with ⟨e, rfl⟩ | ⟨hput, hreg⟩
    · refine .inl ⟨e, hs, hu.trans (congrArg Host.Outcome.next ?_)⟩
      simp only [Effect.apply, reads.pc, State.stackFault_putBank]
    · exact .inr (.inl ⟨_, hs, hput ▸ hu, hreg⟩)
  · exact .inr (.inr hfault)

end

/-- Settles O55: each part is read off what the instruction answers on the state and on the state with the other bank `f`; the
write half takes any `f`. -/
theorem onlyStarReachesTheInactiveBank : Obligations.OnlyStarReachesTheInactiveBank := by
  intro s i hreg himm
  have hstar : ¬((∃ x y, i = .starReg x y) ∨ ∃ x kk, i = .starImm x kk) := by
    rintro (⟨x, y, rfl⟩ | ⟨x, kk, rfl⟩)
    · exact hreg x y rfl
    · exact himm x kk rfl
  refine ⟨fun t ht => ?_, fun k f hk => ⟨fun t ht => ?_, fun e he => ?_⟩⟩
  · by_cases hreset : ∃ e, t = s.stackFault e s.pc
    · obtain ⟨e, rfl⟩ := hreset
      exact .inr ⟨e, resetByStackFault_stackFault _ _ _⟩
    · refine .inl fun k q hk => ?_
      rcases exec_inactiveBank hstar hk zeroRegs with ⟨e, h, _⟩ | ⟨v, h, _, hkept⟩ | ⟨e, h, _⟩ <;>
        rw [ht] at h <;> cases h
      · exact absurd ⟨e, rfl⟩ hreset
      · exact hkept q
  · rcases exec_inactiveBank hstar hk f with ⟨e, h, hu⟩ | ⟨v, h, hu, _⟩ | ⟨e, h, _⟩ <;> rw [ht] at h <;> cases h
    · exact .inr ⟨hu, e, resetByStackFault_stackFault _ _ _⟩
    · exact .inl hu
  · rcases exec_inactiveBank hstar hk f with ⟨e', h, _⟩ | ⟨v, h, _⟩ | ⟨e', h, hu⟩ <;> rw [he] at h <;> cases h
    exact hu

/-! ## What a step can do

Every next state of `step` has one of the shapes below, so a fact about every step is a fact about each shape. -/

/-- The next states a step may leave in state `s`. -/
inductive StepShape (s : State) : State → Prop
  | entry (he : s.ie = true) (hr : s.irq = true) (h : s.stk.length ≠ s.cfg.stackDepth) :
      StepShape s (((((s.setIe false).setIrq false).setStk (s.stk ++ [s.intFrame])).setPc s.cfg.intVector).record
        (.interruptEntry s.pc))
  | entryFull : StepShape s (s.stackFault .overflow s.pc)
  | instr (i : Instr) {t : State} (h : exec i s = .next t) : StepShape s t
  | unassigned (w : InsnWord) : StepShape s (s.advance.record (.unassigned w s.pc))

/-- Every next state of `step` has one of the shapes. -/
theorem step_shape {s t : State} (h : step s = .next t) : StepShape s t := by
  unfold step at h
  split at h
  · next hint =>
    obtain ⟨he, hr⟩ : s.ie = true ∧ s.irq = true := by simpa [State.interruptTaken] using hint
    cases h
    rcases s.interruptEntry_cases with ⟨_, e⟩ | ⟨hroom, e⟩ <;> rw [e]
    · exact .entryFull
    · exact .entry he hr hroom
  · split at h
    · exact .instr _ h
    · next w _ =>
      rcases s.runUnassigned_cases w with ⟨_, e⟩ | ⟨_, e⟩ <;> rw [e] at h <;> cases h
      exact .unassigned w

/-! ## The parameters, the request latch and the log -/

section
variable {i : Instr} {s t : State}

theorem Effect.paramsKept (a : Effect i) : ParamsKept s (a.apply s) := by
  cases a <;> exact ⟨rfl, rfl, rfl, rfl, rfl⟩

theorem StepShape.paramsKept (h : StepShape s t) : ParamsKept s t := by
  cases h with
  | instr i h =>
    obtain ⟨a, rfl⟩ := exec_effect h
    exact a.paramsKept
  | _ => exact ⟨rfl, rfl, rfl, rfl, rfl⟩

/-- An instruction keeps `IRQ`, or a stack fault resets the core. -/
theorem Effect.irq_kept_or_stackFault (a : Effect i) :
    (a.apply s).irq = s.irq ∨ ∃ k, a.apply s = s.stackFault k s.pc := by
  cases a with
  | stackFault k => exact .inr ⟨k, rfl⟩
  | _ => exact .inl rfl

/-- An instruction keeps the log or appends one entry. -/
theorem Effect.log_appends (a : Effect i) : (a.apply s).log = s.log ∨ ∃ e, (a.apply s).log = s.log ++ [e] := by
  cases a with
  | input e | output e => exact .inr ⟨e, rfl⟩
  | stackFault => exact .inr ⟨_, rfl⟩
  | _ => exact .inl rfl

end

/-- Settles O50, shape by shape. -/
theorem stepNeverWritesTheParameters : Obligations.StepNeverWritesTheParameters :=
  fun _ _ h => (step_shape h).paramsKept

/-- Settles O53: the entry and the reset of a stack fault clear the latch, every other shape keeps it. -/
theorem stepNeverRaisesARequest : Obligations.StepNeverRaisesARequest := by
  intro s t h
  cases step_shape h with
  | entry he hr => exact .inr ⟨rfl, .inl ⟨he, hr⟩⟩
  | entryFull => exact .inr ⟨rfl, .inr ⟨_, resetByStackFault_stackFault _ _ _⟩⟩
  | unassigned w => exact .inl rfl
  | instr i hi =>
    obtain ⟨a, rfl⟩ := exec_effect hi
    rcases a.irq_kept_or_stackFault with hk | ⟨k, hk⟩
    · exact .inl hk
    · rw [hk]; exact .inr ⟨rfl, .inr ⟨k, resetByStackFault_stackFault _ _ _⟩⟩

/-- Settles O54: the entry, the reset of a stack fault and the unassigned word log one entry, an instruction at most one. -/
theorem stepOnlyAppendsToTheLog : Obligations.StepOnlyAppendsToTheLog := by
  intro s t h
  cases step_shape h with
  | instr i hi =>
    obtain ⟨a, rfl⟩ := exec_effect hi
    exact a.log_appends
  | _ => exact .inr ⟨_, rfl⟩

/-! ## The invariant

The parameters are kept, so what is left of `State.Inv` is the bank selector, the scratch pad and the stack. -/

section
variable {i : Instr} {s t : State}

/-- Without `HAS_BANK` an instruction leaves the selector at bank A. -/
theorem Effect.baseBank (a : Effect i) (hb : s.cfg.hasBank = false → s.bank = .a) :
    s.cfg.hasBank = false → (a.apply s).bank = .a := by
  intro hbase
  cases a with
  | bank | stackRestore => simp [Effect.apply, hbase]
  | stackFault => rfl
  | _ => exact hb hbase

theorem StepShape.baseBank (h : StepShape s t) (hb : s.cfg.hasBank = false → s.bank = .a) :
    s.cfg.hasBank = false → t.bank = .a := by
  cases h with
  | instr i h =>
    obtain ⟨a, rfl⟩ := exec_effect h
    exact a.baseBank hb
  | entryFull => exact fun _ => rfl
  | _ => exact hb

/-- A scratch pad in canonical form and inside its size. -/
def ScratchOk (k : Cfg) (sp : List Host.Cell) : Prop := Memory.wf sp ∧ Sparse.below k.scratchSize.bytes sp

theorem scratchOk_nil (k : Cfg) : ScratchOk k [] := ⟨Memory.nil_wf, by simp [Sparse.below]⟩

theorem Effect.scratchOk (a : Effect i) (hs : ScratchOk s.cfg s.sp) : ScratchOk s.cfg (a.apply s).sp := by
  cases a with
  | store a v => exact ⟨Memory.write_wf _ _ hs.1, Memory.write_below _ (s.scratchIndex_lt a) hs.2⟩
  | stackFault => exact scratchOk_nil _
  | _ => exact hs

theorem StepShape.scratchOk (h : StepShape s t) (hs : ScratchOk s.cfg s.sp) : ScratchOk s.cfg t.sp := by
  cases h with
  | instr i h =>
    obtain ⟨a, rfl⟩ := exec_effect h
    exact a.scratchOk hs
  | entryFull => exact scratchOk_nil _
  | _ => exact hs

/-- A stack within its depth whose frames have the variant's shape. -/
def StackOk (k : Cfg) (l : List Frame) : Prop :=
  l.length ≤ k.stackDepth ∧ ∀ f ∈ l, f.snap.isSome = k.hasBank

theorem stackOk_nil (k : Cfg) : StackOk k [] := ⟨Nat.zero_le _, by simp⟩

theorem StackOk.pop {k : Cfg} {l rest : List Frame} {f : Frame} (h : StackOk k l) (hl : l = rest ++ [f]) :
    StackOk k rest := by
  subst hl
  obtain ⟨hlen, hshape⟩ := h
  have hrest : rest.length ≤ k.stackDepth := by rw [List.length_append] at hlen; omega
  exact ⟨hrest, fun g hg => hshape g (List.mem_append_left _ hg)⟩

/-- A frame of the state has the variant's shape, so pushing it where there is room keeps the stack in order. -/
theorem StackOk.push_frame (h : StackOk s.cfg s.stk) (hroom : s.stk.length ≠ s.cfg.stackDepth) (a : Addr) (b : Bool) :
    StackOk s.cfg (s.stk ++ [s.frame a b]) := by
  obtain ⟨hlen, hshape⟩ := h
  refine ⟨by simp; omega, fun g hg => ?_⟩
  rcases List.mem_append.1 hg with hg | hg
  · exact hshape g hg
  · rw [List.mem_singleton.1 hg]
    cases hb : s.cfg.hasBank <;> simp [State.frame, hb]

@[simp] theorem State.portRead_stk (s : State) (p : Byte) : (s.portRead p).2.stk = s.stk := by
  rcases s.portRead_cases p with ⟨_, _, e⟩ | ⟨_, e⟩ <;> simp [e]

@[simp] theorem State.restore_stk (s : State) (f : Frame) : (s.restore f).stk = s.stk := by
  rcases s.restore_cases f with ⟨_, _, _, _, e⟩ | ⟨_, e⟩ <;> simp [e]

/-- An instruction pushes where there is room, pops what is there, empties the stack or leaves it. -/
theorem ExecShape.stackOk (h : ExecShape i s t) (hs : StackOk s.cfg s.stk) : StackOk s.cfg t.stk := by
  cases h with
  | call a hroom => exact hs.push_frame hroom _ _
  | ret rest f a hstk => exact hs.pop hstk
  | loadRet rest f a x v hstk => exact hs.pop hstk
  | reti rest f b hstk => simpa using hs.pop hstk
  | input p x => simpa using hs
  | stackFault k => exact stackOk_nil _
  | _ => exact hs

theorem StepShape.stackOk (h : StepShape s t) (hs : StackOk s.cfg s.stk) : StackOk s.cfg t.stk := by
  cases h with
  | instr i h => exact (exec_shape h).stackOk hs
  | entry _ _ hroom => exact hs.push_frame hroom _ _
  | entryFull => exact stackOk_nil _
  | unassigned w => exact hs

/-- Kept parameters carry over the invariant; what is left is the scratch pad, the stack and the bank selector. -/
theorem State.Inv.of_paramsKept (hs : s.Inv) (hp : ParamsKept s t) (hsp : ScratchOk s.cfg t.sp)
    (hstk : StackOk s.cfg t.stk) (hbank : s.cfg.hasBank = false → t.bank = .a) : t.Inv := by
  obtain ⟨hcfg, hpm, hdev, hrt, hwt⟩ := hp
  obtain ⟨hwf, hbelow⟩ := hsp
  obtain ⟨hlen, hshape⟩ := hstk
  constructor
  case spCanonical => exact hwf
  case spBound => rwa [hcfg]
  case stackBound => rwa [hcfg]
  case frameShape => rwa [hcfg]
  case baseBank => rwa [hcfg]
  case cfgLegal => rw [hcfg]; exact hs.cfgLegal
  case pmCanonical => rw [hpm]; exact hs.pmCanonical
  case pmBound => rw [hpm]; exact hs.pmBound
  case specsLegal => rw [hdev]; exact hs.specsLegal
  case deviceNames => rw [hdev]; exact hs.deviceNames
  case readTable => rw [hrt, hdev]; exact hs.readTable
  case writeTable => rw [hwt, hdev]; exact hs.writeTable

end

/-- Settles O48: no step writes a parameter, and each shape keeps the scratch pad, the stack and the bank selector in order. -/
theorem stepKeepsTheInvariant : Obligations.StepKeepsTheInvariant := by
  intro s t hs h
  have shape := step_shape h
  exact hs.of_paramsKept shape.paramsKept (shape.scratchOk ⟨hs.spCanonical, hs.spBound⟩)
    (shape.stackOk ⟨hs.stackBound, hs.frameShape⟩) (shape.baseBank hs.baseBank)

/-- Settles O47: at power-on every memory, table, stack and list is empty. -/
theorem resetMeetsTheInvariant : Obligations.ResetMeetsTheInvariant where
  cfgLegal := rfl
  pmCanonical := .nil
  pmBound := by simp [State.reset, Sparse.below]
  spCanonical := Memory.nil_wf
  spBound := (scratchOk_nil _).2
  stackBound := Nat.zero_le _
  frameShape := (stackOk_nil _).2
  baseBank := fun _ => rfl
  specsLegal := by simp [State.reset]
  deviceNames := .nil
  readTable := rfl
  writeTable := rfl

end Sys2Proof.Machine

namespace Sys2Proof.Machine

/-! ## The port router (20_memory.md R240 to R246)

A table is filled by inserting, so each token overwrites what the ones before it bound, and each device the devices before. -/

/-- What the last of the tokens that covers address `a` in direction `d` binds there. -/
def lastRoute (d : Dir) (dev : Device) (toks : List Token) (a : Nat) : Option Route :=
  (toks.reverse.find? fun tok => tok.allows dev d && decide (tok.low ≤ a) && decide (a ≤ tok.high)).map fun tok =>
    { device := dev.id, index := a - tok.low + tok.offset }

theorem deviceRoute_eq_lastRoute (d : Dir) (dev : Device) (a : Nat) :
    deviceRoute d dev a = lastRoute d dev (deviceTokens dev) a := rfl

/-- What the later tokens bind goes before what the first one binds. -/
theorem lastRoute_cons (d : Dir) (dev : Device) (tok : Token) (toks : List Token) (a : Nat) :
    lastRoute d dev (tok :: toks) a = (lastRoute d dev toks a).or
      (if tok.allows dev d && decide (tok.low ≤ a) && decide (a ≤ tok.high) then
        some { device := dev.id, index := a - tok.low + tok.offset }
      else none) := by
  unfold lastRoute
  rw [List.reverse_cons, List.find?_append, Option.map_or, List.find?_cons]
  cases tok.allows dev d && decide (tok.low ≤ a) && decide (a ≤ tok.high) <;> rfl

/-- Filling a table from tokens binds what the last covering token binds, and leaves the rest. -/
theorem lookup_foldl_fillToken (d : Dir) (dev : Device) (table : List (Nat × Route)) (toks : List Token) (a : Nat) :
    Sparse.lookup (toks.foldl (fillToken d dev) table) a =
      (lastRoute d dev toks a).or (Sparse.lookup table a) := by
  induction toks generalizing table with
  | nil => rfl
  | cons tok toks ih =>
    rw [List.foldl_cons, ih, lookup_fillToken, lastRoute_cons, Option.or_assoc]
    split <;> rfl

/-- A device binds what its own tokens bind, and leaves the rest. -/
theorem lookup_fillDevice (d : Dir) (table : List (Nat × Route)) (dev : Device) (a : Nat) :
    Sparse.lookup (fillDevice d table dev) a = (deviceRoute d dev a).or (Sparse.lookup table a) :=
  lookup_foldl_fillToken d dev table (deviceTokens dev) a

theorem buildTable_concat (d : Dir) (devices : List Device) (dev : Device) :
    buildTable d (devices ++ [dev]) = fillDevice d (buildTable d devices) dev :=
  List.foldl_append

/-- Settles O57: the device registered last fills the table the earlier ones made. -/
theorem lastDeviceAndTokenWin : Obligations.LastDeviceAndTokenWin := by
  intro d devices dev a
  rw [buildTable_concat, lookup_fillDevice]
  cases deviceRoute d dev a <;> rfl

/-- The tokens of the worked example (R246). -/
theorem deviceTokens_of_workedExample {dev : Device}
    (hspec : dev.spec = ['w', '1', ',', 'r', '2', '-', '5', ':', '1', '0']) :
    deviceTokens dev = [⟨some .write, 1, 1, 0⟩, ⟨some .read, 2, 5, 10⟩] := by
  rw [deviceTokens, hspec]
  rfl

/-- On a device that allows both directions, a token's own direction alone decides. -/
theorem Token.allows_of_both {dev : Device} (hboth : dev.capability = .both) (tok : Token) (d : Dir) :
    tok.allows dev d = (tok.dir.isNone || tok.dir == some d) := by
  rw [Token.allows, hboth]
  rfl

theorem buildTable_singleton (d : Dir) (dev : Device) :
    buildTable d [dev] = (deviceTokens dev).foldl (fillToken d dev) [] := rfl

/-- A read of a port nothing is bound to answers 0 and logs one dispatch. -/
theorem State.portRead_unbound {s : State} {p : Byte} (h : Sparse.lookup s.rt (portAddr p).toNat = none) :
    s.portRead p = (0x00#8, s.record (.portAccess .read (portAddr p) none 0x00#8)) := by
  rcases s.portRead_cases p with ⟨r, hr, _⟩ | ⟨_, e⟩
  · simp [h] at hr
  · exact e

/-- An `INPUT` from a port nothing is bound to puts 0 into `sX` (R231, R605). -/
theorem exec_inputImm_unbound {s : State} {pp : Byte} (x : Reg)
    (h : Sparse.lookup s.rt (portAddr pp).toNat = none) :
    exec (.inputImm x pp) s =
      .next ((s.record (.portAccess .read (portAddr pp) none 0x00#8)).setX x 0x00#8).advance := by
  show inputPort x (.imm pp) s = _
  simp [inputPort, State.opB, State.portRead_unbound h]

theorem State.x_advance (s : State) (q : Reg) : s.advance.x q = s.x q := rfl

/-- Settles O58: the two tokens fill one table each, and neither covers address 6. -/
theorem routerWorkedExample : Obligations.RouterWorkedExample := by
  intro dev hspec hboth
  have hwrite : buildTable .write [dev] = [(1, { device := dev.id, index := 0 })] := by
    rw [buildTable_singleton, deviceTokens_of_workedExample hspec]
    simp [fillToken, Token.allows_of_both hboth, Token.addresses, Sparse.insert]
  have hread : buildTable .read [dev] =
      [(2, { device := dev.id, index := 10 }), (3, { device := dev.id, index := 11 }),
        (4, { device := dev.id, index := 12 }), (5, { device := dev.id, index := 13 })] := by
    rw [buildTable_singleton, deviceTokens_of_workedExample hspec]
    simp [fillToken, Token.allows_of_both hboth, Token.addresses, Sparse.insert, List.range'_succ]
  refine ⟨hwrite, hread, fun s x hrt => ?_⟩
  have hunbound : Sparse.lookup s.rt (portAddr 0x06#8).toNat = none := by
    rw [hrt, hread]
    rfl
  refine ⟨_, exec_inputImm_unbound x hunbound, ?_⟩
  rw [State.x_advance, State.x_setX, if_pos rfl]

/-! ## Fetch at an unassigned address (20_memory.md R201) -/

/-- Without a pending, enabled request, a cycle runs the instruction at `pc` (60_exceptions.md R810). -/
theorem step_of_decode {s : State} {i : Instr} (hint : ¬(s.ie = true ∧ s.irq = true))
    (hi : decode s.cfg (s.pmRead s.pc) = .instr i) : step s = exec i s := by
  have htaken : ¬s.interruptTaken = true := by simpa [State.interruptTaken] using hint
  rw [step, if_neg htaken, State.fetch, hi]

theorem State.pmRead_unassigned {s : State} {a : Addr} (h : Sparse.lookup s.pm a.toNat = none) :
    s.pmRead a = 0x00000#18 := by
  rw [State.pmRead, State.pmAt, h]
  rfl

/-- The all-zero word is `LOAD s0, s0` in every configuration. -/
theorem decode_zero (k : Cfg) : decode k 0x00000#18 = .instr (.loadReg 0 0) := rfl

theorem RegFile.put_get_self (f : RegFile) (r : Reg) : RegFile.put f r (RegFile.get f r) = f := by
  simp [RegFile.put, RegFile.get]

/-- Writing to a register what it holds changes nothing. -/
theorem State.setX_x_self (s : State) (r : Reg) : s.setX r (s.x r) = s := by
  cases h : s.activeBank <;> simp [State.setX, State.x, State.reg, h, RegFile.put_get_self]

/-- A load of a register into itself only goes on. -/
theorem exec_loadReg_self (s : State) (x : Reg) : exec (.loadReg x x) s = .next s.advance :=
  congrArg (fun t : State => Host.Outcome.next t.advance) (s.setX_x_self x)

theorem pcAdvanced_advance (s : State) : PcAdvanced s s.advance := BitVec.toNat_add ..

/-- Settles O7: the fetch reads the all-zero word, and `LOAD s0, s0` only goes on. -/
theorem unassignedAddressOnlyAdvances : Obligations.UnassignedAddressOnlyAdvances := by
  intro s hint hnone
  have hdecode : decode s.cfg (s.pmRead s.pc) = .instr (.loadReg 0 0) := by
    rw [State.pmRead_unassigned hnone, decode_zero]
  exact ⟨s.advance, (step_of_decode hint hdecode).trans (exec_loadReg_self s 0), pcAdvanced_advance s,
    ⟨rfl, fun _ _ => rfl⟩, ⟨rfl, rfl⟩, ⟨rfl, rfl⟩, rfl, fun _ => rfl, ⟨rfl, rfl⟩, ⟨rfl, rfl, rfl, rfl, rfl⟩⟩

end Sys2Proof.Machine

namespace Sys2Proof.Machine

/-! ## Decode and encode (30_encoding.md R303 to R331)

A word meets the encoding of an instruction, on the bits its format names, exactly when it holds that format's fields. With this
said once for each format, decode is shown to answer what the rules say (`reads_decode`), and then nothing else
(`decode_eq_iff_reads`). -/

section Formats

variable (w : InsnWord)

/-! A word is its four fields of R303, and a mask works on each of them alone. -/

theorem toNat_eq_fields : w.toNat =
    (fieldOp w).toNat * 4096 + (fieldX w).toNat * 256 + (fieldY w).toNat * 16 + (fieldCode w).toNat := by
  simp only [fieldOp, fieldX, fieldY, fieldCode, extract_toNat]; omega

theorem and_toNat (m : InsnWord) : (w &&& m).toNat =
    (fieldOp w &&& fieldOp m).toNat * 4096 + (fieldX w &&& fieldX m).toNat * 256 +
      (fieldY w &&& fieldY m).toNat * 16 + (fieldCode w &&& fieldCode m).toNat := by
  rw [toNat_eq_fields]
  simp only [fieldOp, fieldX, fieldY, fieldCode, BitVec.extractLsb'_and]

/-- The lowest bit of a word is that of its shift code. -/
theorem fieldB_toNat : (fieldB w).toNat = (fieldCode w &&& 1#4).toNat := by
  have hcode : (fieldCode w).toNat % 2 = w.toNat % 2 := by
    simp only [fieldCode, extract_toNat]; omega
  rw [BitVec.toNat_and, BitVec.toNat_ofNat, Nat.and_one_is_mod, hcode, fieldB, BitVec.getLsbD, Nat.toNat_testBit,
    Nat.pow_zero, Nat.div_one]

/-! What each format's mask leaves of a word (R306, R307). -/

theorem and_maskRR_toNat : (w &&& 0x3FFF0#18).toNat =
    (fieldOp w).toNat * 4096 + (fieldX w).toNat * 256 + (fieldY w).toNat * 16 := by
  rw [and_toNat, show fieldOp 0x3FFF0#18 = BitVec.allOnes 6 from rfl, show fieldX 0x3FFF0#18 = BitVec.allOnes 4 from rfl,
    show fieldY 0x3FFF0#18 = BitVec.allOnes 4 from rfl, show fieldCode 0x3FFF0#18 = 0#4 from rfl]
  simp only [BitVec.and_allOnes, BitVec.and_zero, BitVec.toNat_zero, Nat.add_zero]

theorem and_maskSH_toNat : (w &&& 0x3FF0F#18).toNat =
    (fieldOp w).toNat * 4096 + (fieldX w).toNat * 256 + (fieldCode w).toNat := by
  rw [and_toNat, show fieldOp 0x3FF0F#18 = BitVec.allOnes 6 from rfl, show fieldX 0x3FF0F#18 = BitVec.allOnes 4 from rfl,
    show fieldY 0x3FF0F#18 = 0#4 from rfl, show fieldCode 0x3FF0F#18 = BitVec.allOnes 4 from rfl]
  simp only [BitVec.and_allOnes, BitVec.and_zero, BitVec.toNat_zero, Nat.zero_mul, Nat.add_zero]

theorem and_maskRT_toNat : (w &&& 0x3F000#18).toNat = (fieldOp w).toNat * 4096 := by
  rw [and_toNat, show fieldOp 0x3F000#18 = BitVec.allOnes 6 from rfl, show fieldX 0x3F000#18 = 0#4 from rfl,
    show fieldY 0x3F000#18 = 0#4 from rfl, show fieldCode 0x3F000#18 = 0#4 from rfl]
  simp only [BitVec.and_allOnes, BitVec.and_zero, BitVec.toNat_zero, Nat.zero_mul, Nat.add_zero]

theorem and_maskB1_toNat : (w &&& 0x3F001#18).toNat = (fieldOp w).toNat * 4096 + (fieldB w).toNat := by
  rw [and_toNat, show fieldOp 0x3F001#18 = BitVec.allOnes 6 from rfl, show fieldX 0x3F001#18 = 0#4 from rfl,
    show fieldY 0x3F001#18 = 0#4 from rfl, show fieldCode 0x3F001#18 = 1#4 from rfl, fieldB_toNat]
  simp only [BitVec.and_allOnes, BitVec.and_zero, BitVec.toNat_zero, Nat.zero_mul, Nat.add_zero]

theorem and_fullMask : w &&& 0x3FFFF#18 = w := BitVec.and_allOnes

/-! A word agrees with a word of a format exactly when it holds the same fields. The opcode and the shift code are compared as
numbers, as decode matches them. -/

variable {w} {op : BitVec 6} {x y : Reg} {kk : Byte} {aaa : Addr} {code p : BitVec 4} {b : Bool}

theorem agrees_wordRR_iff : w &&& 0x3FFF0#18 = wordRR op x y ↔
    (fieldOp w).toNat = op.toNat ∧ fieldX w = x ∧ fieldY w = y := by
  simp only [← BitVec.toNat_inj, and_maskRR_toNat, wordRR_toNat]; omega

theorem agrees_wordRK_iff : w &&& 0x3FFFF#18 = wordRK op x kk ↔
    (fieldOp w).toNat = op.toNat ∧ fieldX w = x ∧ fieldKK w = kk := by
  rw [and_fullMask]
  simp only [← BitVec.toNat_inj, wordRK_toNat, fieldOp, fieldX, fieldKK, extract_toNat]; omega

theorem agrees_wordSH_iff : w &&& 0x3FF0F#18 = wordSH x code ↔
    (fieldOp w).toNat = 0x14 ∧ fieldX w = x ∧ (fieldCode w).toNat = code.toNat := by
  simp only [← BitVec.toNat_inj, and_maskSH_toNat, wordSH_toNat]; omega

theorem agrees_wordJA_iff : w &&& 0x3FFFF#18 = wordJA op aaa ↔
    (fieldOp w).toNat = op.toNat ∧ fieldAAA w = aaa := by
  rw [and_fullMask]
  simp only [← BitVec.toNat_inj, wordJA_toNat, fieldOp, fieldAAA, extract_toNat]; omega

theorem agrees_wordRT_iff : w &&& 0x3F000#18 = wordRT op ↔ (fieldOp w).toNat = op.toNat := by
  simp only [← BitVec.toNat_inj, and_maskRT_toNat, wordRT_toNat]; omega

theorem agrees_wordB1_iff : w &&& 0x3F001#18 = wordB1 op b ↔
    (fieldOp w).toNat = op.toNat ∧ fieldB w = b := by
  simp only [← BitVec.toNat_inj, and_maskB1_toNat, wordB1_toNat]
  have hb : (fieldB w).toNat = b.toNat ↔ fieldB w = b := by cases fieldB w <;> cases b <;> decide
  have hw_le := (fieldB w).toNat_le
  have hb_le := b.toNat_le
  rw [← hb]
  omega

theorem agrees_wordKP_iff : w &&& 0x3FFFF#18 = wordKP op kk p ↔
    (fieldOp w).toNat = op.toNat ∧ fieldKX w = kk ∧ fieldP w = p := by
  rw [and_fullMask]
  simp only [← BitVec.toNat_inj, wordKP_toNat, fieldOp, fieldKX, fieldP, extract_toNat]; omega

/-- The shift code is the low half of the low byte. -/
theorem fieldCode_toNat (w : InsnWord) : (fieldCode w).toNat = (fieldKK w).toNat % 16 := by
  simp only [fieldCode, fieldKK, extract_toNat]; omega

end Formats

section Decode

variable {k : Cfg} {w u : InsnWord} {i : Instr}

/-- What the rules let a word be read as: an instruction the configuration has, which the word agrees with on the fields of its
format, `SLA` not on the sentinel of `HWBUILD` (R306, R307, R320); or, for a listed word, that word as unassigned (R331). -/
def Reads (k : Cfg) (w : InsnWord) : Decoded → Prop
  | .instr i => i.wf k = true ∧ w &&& formatMask i = encode i ∧
      (k.hasBank = true → (∃ x, i = .sla x) → fieldKK w ≠ 0x80#8)
  | .unassigned u => u = w ∧ listedUnassigned k (fieldOp w).toNat (fieldKK w).toNat

theorem reads_instr_iff : Reads k w (.instr i) ↔ i.wf k = true ∧ w &&& formatMask i = encode i ∧
    (k.hasBank = true → (∃ x, i = .sla x) → fieldKK w ≠ 0x80#8) := Iff.rfl

theorem reads_unassigned_iff : Reads k w (.unassigned u) ↔
    u = w ∧ listedUnassigned k (fieldOp w).toNat (fieldKK w).toNat := Iff.rfl

theorem gated_of_true {g : Bool} (hg : g = true) (w : InsnWord) (i : Instr) : gated g w i = .instr i := if_pos hg

theorem gated_of_false {g : Bool} (hg : g = false) (w : InsnWord) (i : Instr) : gated g w i = .unassigned w := by
  rw [hg]; rfl

theorem reads_gated_iff {g : Bool} : Reads k w (gated g w i) ↔
    (g = true → Reads k w (.instr i)) ∧ (g = false → Reads k w (.unassigned w)) := by
  cases g <;> simp [gated]

/-- Opcode 0x14 is the shift sub-map. -/
theorem decode_eq_decodeShift (hop : (fieldOp w).toNat = 0x14) : decode k w = decodeShift k w := by
  rw [decode, hop]; rfl

/-! Decode answers what the rules say. -/

theorem reads_decodeShift (hop : (fieldOp w).toNat = 0x14) : Reads k w (decodeShift k w) := by
  unfold decodeShift
  split
  next hsentinel =>
    obtain ⟨hbank, hkk⟩ : k.hasBank = true ∧ fieldKK w = 0x80#8 := by simpa using hsentinel
    exact ⟨hbank, agrees_wordRK_iff.2 ⟨hop, rfl, hkk⟩, by simp⟩
  next hsentinel =>
    split
    case h_11 =>
      -- the last arm: no shift code of R311
      have hlt : (fieldCode w).toNat < 16 := (fieldCode w).isLt
      refine ⟨rfl, .inr (.inl ⟨hop, ?_⟩)⟩
      rw [← fieldCode_toNat]
      simp only [List.mem_cons, List.not_mem_nil, imp_false] at *
      omega
    all_goals
      rename_i hcode
      exact ⟨rfl, agrees_wordSH_iff.2 ⟨hop, rfl, hcode⟩, fun hbank _ hkk => hsentinel (by simp [hbank, hkk])⟩

theorem reads_decode (k : Cfg) (w : InsnWord) : Reads k w (decode k w) := by
  by_cases hshift : (fieldOp w).toNat = 0x14
  · rw [decode_eq_decodeShift hshift]
    exact reads_decodeShift hshift
  unfold decode
  split
  case h_21 hop => exact absurd hop hshift
  case h_58 =>
    -- the last arm: no opcode of R310
    have hlt : (fieldOp w).toNat < 64 := (fieldOp w).isLt
    refine ⟨rfl, .inl ?_⟩
    simp only [List.mem_cons, List.not_mem_nil, imp_false] at *
    omega
  all_goals
    rename_i hop
    cases hb : fieldB w <;>
      simp [hop, hb, reads_gated_iff, reads_instr_iff, reads_unassigned_iff, Instr.wf, formatMask, encode,
        agrees_wordRR_iff, agrees_wordRK_iff, agrees_wordJA_iff, agrees_wordRT_iff, agrees_wordB1_iff,
        agrees_wordKP_iff, listedUnassigned]

/-! Decode answers nothing else. -/

/-- Only `SLA`'s shift code can stand in a word with the sentinel. -/
theorem not_sentinel_of_code (hcode : (fieldCode w).toNat ≠ 0) : ¬(k.hasBank && fieldKK w == 0x80#8) = true := by
  intro hsentinel
  obtain ⟨-, hkk⟩ : k.hasBank = true ∧ fieldKK w = 0x80#8 := by simpa using hsentinel
  rw [fieldCode_toNat, hkk] at hcode
  exact hcode rfl

theorem decode_of_reads_instr (h : Reads k w (.instr i)) : decode k w = .instr i := by
  obtain ⟨hwf, hagree, hsla⟩ := h
  refine Eq.trans ?_ (gated_of_true hwf w i)
  cases i with
  | loadReg x y | andReg x y | orReg x y | xorReg x y | inputReg x y | fetchReg x y | testReg x y
  | testcyReg x y | addReg x y | addcyReg x y | starReg x y | subReg x y | subcyReg x y | compareReg x y
  | comparecyReg x y | callAt x y | jumpAt x y | outputReg x y | storeReg x y =>
    obtain ⟨hop, rfl, rfl⟩ := agrees_wordRR_iff.1 hagree
    rw [decode, hop]; rfl
  | loadImm x kk | andImm x kk | orImm x kk | xorImm x kk | inputImm x kk | fetchImm x kk | testImm x kk
  | testcyImm x kk | addImm x kk | addcyImm x kk | starImm x kk | subImm x kk | subcyImm x kk | compareImm x kk
  | comparecyImm x kk | loadReturn x kk | outputImm x kk | storeImm x kk =>
    obtain ⟨hop, rfl, rfl⟩ := agrees_wordRK_iff.1 hagree
    rw [decode, hop]; rfl
  | hwbuild x =>
    obtain ⟨hop, rfl, hkk⟩ := agrees_wordRK_iff.1 hagree
    have hbank : k.hasBank = true := hwf
    rw [decode_eq_decodeShift hop, decodeShift, if_pos (by simp [hbank, hkk])]
    exact (gated_of_true hbank ..).symm
  | sla x =>
    obtain ⟨hop, rfl, hcode⟩ := agrees_wordSH_iff.1 hagree
    have hno : ¬(k.hasBank && fieldKK w == 0x80#8) = true := by simpa using hsla
    rw [decode_eq_decodeShift hop, decodeShift, if_neg hno, hcode]; rfl
  | rl x | slx x | sl0 x | sl1 x | sra x | srx x | rr x | sr0 x | sr1 x =>
    obtain ⟨hop, rfl, hcode⟩ := agrees_wordSH_iff.1 hagree
    rw [decode_eq_decodeShift hop, decodeShift, if_neg (not_sentinel_of_code (by simp [hcode])), hcode]; rfl
  | call a | jump a | callZ a | jumpZ a | callNZ a | jumpNZ a | callC a | jumpC a | callNC a | jumpNC a =>
    obtain ⟨hop, rfl⟩ := agrees_wordJA_iff.1 hagree
    rw [decode, hop]; rfl
  | outputk kx p =>
    obtain ⟨hop, rfl, rfl⟩ := agrees_wordKP_iff.1 hagree
    rw [decode, hop]; rfl
  | ret | retZ | retNZ | retC | retNC =>
    rw [decode, agrees_wordRT_iff.1 hagree]; rfl
  | disableInterrupt | enableInterrupt | returniDisable | returniEnable | regbankA | regbankB =>
    obtain ⟨hop, hb⟩ := agrees_wordB1_iff.1 hagree
    rw [decode, hop, hb]; rfl

theorem decode_of_listed (h : listedUnassigned k (fieldOp w).toNat (fieldKK w).toNat) :
    decode k w = .unassigned w := by
  simp only [listedUnassigned, List.mem_cons, List.not_mem_nil, or_false] at h
  obtain hop | ⟨hop, hcode⟩ | ⟨hgate, hop⟩ | ⟨hgate, hop⟩ | ⟨hgate, hop⟩ | ⟨hgate, hop⟩ | ⟨hgate, hop⟩ := h
  · rcases hop with hop | hop | hop | hop | hop | hop | hop <;> rw [decode, hop] <;> rfl
  · rw [← fieldCode_toNat] at hcode
    rw [decode_eq_decodeShift hop, decodeShift, if_neg (not_sentinel_of_code (by omega))]
    rcases hcode with hcode | hcode | hcode | hcode | hcode | hcode <;> rw [hcode] <;> rfl
  · rcases hop with hop | hop | hop | hop <;> rw [decode, hop] <;> exact gated_of_false hgate ..
  · rcases hop with hop | hop <;> rw [decode, hop] <;> exact gated_of_false hgate ..
  · rw [decode, hop]; exact gated_of_false hgate ..
  · rcases hop with hop | hop <;> rw [decode, hop] <;> exact gated_of_false hgate ..
  · rcases hop with hop | hop <;> rw [decode, hop] <;> exact gated_of_false hgate ..

/-- Decode answers exactly what the rules say. -/
theorem decode_eq_iff_reads {d : Decoded} : decode k w = d ↔ Reads k w d := by
  refine ⟨fun h => h ▸ reads_decode k w, fun h => ?_⟩
  cases d with
  | instr i => exact decode_of_reads_instr h
  | unassigned u =>
    obtain ⟨rfl, hlisted⟩ := h
    exact decode_of_listed hlisted

/-- The encoder writes 0 where the format names no field. -/
theorem encode_and_formatMask (i : Instr) : encode i &&& formatMask i = encode i := by
  cases i with
  | loadReg x y | andReg x y | orReg x y | xorReg x y | inputReg x y | fetchReg x y | testReg x y
  | testcyReg x y | addReg x y | addcyReg x y | starReg x y | subReg x y | subcyReg x y | compareReg x y
  | comparecyReg x y | callAt x y | jumpAt x y | outputReg x y | storeReg x y =>
    simp [formatMask, encode, agrees_wordRR_iff]
  | sla x | rl x | slx x | sl0 x | sl1 x | sra x | srx x | rr x | sr0 x | sr1 x =>
    simp [formatMask, encode, agrees_wordSH_iff]
  | ret | retZ | retNZ | retC | retNC => rfl
  | disableInterrupt | enableInterrupt | returniDisable | returniEnable | regbankA | regbankB => rfl
  | _ => exact and_fullMask _

end Decode

/-- Settles O2: it is what the rules let a word be read as, for an instruction. -/
theorem decodedWordAgreesOnItsFields : Obligations.DecodedWordAgreesOnItsFields :=
  fun _ _ _ => decode_eq_iff_reads

/-- Settles O3: it is what the rules let a word be read as, for an unassigned word. -/
theorem unassignedWordsAreExactlyThoseListed : Obligations.UnassignedWordsAreExactlyThoseListed :=
  fun _ _ _ => decode_eq_iff_reads

/-- Settles O1: an instruction's own word agrees with itself, and no shift's own word holds the sentinel. -/
theorem decodeOfEncodeIsTheInstruction : Obligations.DecodeOfEncodeIsTheInstruction := by
  intro k i hwf
  refine decode_eq_iff_reads.2 ⟨hwf, encode_and_formatMask i, ?_⟩
  rintro - ⟨x, rfl⟩
  exact fieldKK_wordSH_ne x 0x0#4

/-- Settles O4: each example word is a closed term, decoded in the preset's gates. -/
theorem exampleWordsDecode : Obligations.ExampleWordsDecode :=
  fun _ _ => ⟨rfl, rfl, rfl, rfl, rfl, rfl, rfl, rfl⟩

/-! ## An unassigned word at `pc` (30_encoding.md R330) -/

/-- Without a pending, enabled request, a cycle on an unassigned word is its no-op or its fault (60_exceptions.md R810). -/
theorem step_of_unassigned {s : State} {w : InsnWord} (hint : ¬(s.ie = true ∧ s.irq = true))
    (hw : decode s.cfg (s.pmRead s.pc) = .unassigned w) : step s = s.runUnassigned w := by
  have htaken : ¬s.interruptTaken = true := by simpa [State.interruptTaken] using hint
  rw [step, if_neg htaken, State.fetch, hw]

/-- Settles O6, from the two ways an unassigned word runs. -/
theorem unassignedWordIsNoOpOrStrictFault : Obligations.UnassignedWordIsNoOpOrStrictFault := by
  intro s w hint hw
  rw [step_of_unassigned hint hw]
  obtain ⟨hmode, hrun⟩ | ⟨hmode, hrun⟩ := s.runUnassigned_cases w <;> rw [hrun]
  · exact ⟨fun _ => rfl, fun hdefault => absurd (hmode.symm.trans hdefault) (by decide)⟩
  · refine ⟨fun hstrict => absurd (hmode.symm.trans hstrict) (by decide), fun _ => ?_⟩
    exact ⟨_, rfl, pcAdvanced_advance s, rfl, rfl, ⟨rfl, fun _ _ => rfl⟩, ⟨rfl, rfl⟩, ⟨rfl, rfl⟩, rfl, fun _ => rfl,
      ⟨rfl, rfl, rfl, rfl, rfl⟩⟩

end Sys2Proof.Machine

namespace Sys2Proof.Machine

/-! ## The rows of the opcode table (30_encoding.md R307, R310)

A row gives its instruction a gate, a format and a word. From these three and `decode_eq_iff_reads`, every word of the row decodes
as the format says. -/

section Rows

/-- A word with the fields of an instruction's row is that instruction where the gate `b` is true. Where it is false the word is
unassigned, as R331 lists it. No row of the shift format is meant: the sentinel of `HWBUILD` takes words from `SLA` (R320). -/
theorem decode_eq_gated {k : Cfg} {w m e : InsnWord} {i : Instr} {b : Bool}
    (hrow : i.wf k = b ∧ formatMask i = m ∧ encode i = e) (hm : m ≠ 0x3FF0F#18) (hagree : w &&& m = e)
    (hlisted : b = false → listedUnassigned k (fieldOp w).toNat (fieldKK w).toNat) : decode k w = gated b w i := by
  obtain ⟨hwf, rfl, rfl⟩ := hrow
  refine decode_eq_iff_reads.2 (reads_gated_iff.2 ⟨fun hb => ⟨hwf.trans hb, hagree, ?_⟩, fun hb => ⟨rfl, hlisted hb⟩⟩)
  rintro - ⟨x, rfl⟩
  exact absurd rfl hm

variable {op : BitVec 6} {g : Cfg → Bool}

theorem decodesRR {f : Reg → Reg → Instr}
    (hrow : ∀ k x y, (f x y).wf k = g k ∧ formatMask (f x y) = 0x3FFF0#18 ∧ encode (f x y) = wordRR op x y)
    (hlisted : ∀ k low, g k = false → listedUnassigned k op.toNat low) : DecodesRR op g f := by
  rintro k w rfl -
  exact decode_eq_gated (hrow k _ _) (by decide) (agrees_wordRR_iff.2 ⟨rfl, rfl, rfl⟩) (hlisted k _)

theorem decodesRK {f : Reg → Byte → Instr}
    (hrow : ∀ k x kk, (f x kk).wf k = g k ∧ formatMask (f x kk) = 0x3FFFF#18 ∧ encode (f x kk) = wordRK op x kk)
    (hlisted : ∀ k low, g k = false → listedUnassigned k op.toNat low) : DecodesRK op g f := by
  rintro k w rfl
  exact decode_eq_gated (hrow k _ _) (by decide) (agrees_wordRK_iff.2 ⟨rfl, rfl, rfl⟩) (hlisted k _)

/-- Without a gate no word of the row is unassigned. -/
theorem decodesRR_ungated {f : Reg → Reg → Instr}
    (hrow : ∀ k x y, (f x y).wf k = true ∧ formatMask (f x y) = 0x3FFF0#18 ∧ encode (f x y) = wordRR op x y) :
    DecodesRR op ungated f :=
  decodesRR hrow nofun

/-- Without a gate no word of the row is unassigned. -/
theorem decodesRK_ungated {f : Reg → Byte → Instr}
    (hrow : ∀ k x kk, (f x kk).wf k = true ∧ formatMask (f x kk) = 0x3FFFF#18 ∧ encode (f x kk) = wordRK op x kk) :
    DecodesRK op ungated f :=
  decodesRK hrow nofun

end Rows

/-! ## A result in `sX` -/

section AluResult

variable {i : Instr} {s : State} {x : Reg} {v : Byte} {z c : Bool}

theorem aluEffect_of_exec (h : exec i s = .next ((s.setX x v).setFlags z c).advance) : AluEffect i s x v z c := by
  refine ⟨_, h, ?_, rfl, rfl, pcAdvanced_advance _, ⟨rfl, fun j q hkept => ?_⟩, ⟨rfl, rfl⟩, rfl, fun _ => rfl, ⟨rfl, rfl⟩,
    ⟨rfl, rfl, rfl, rfl, rfl⟩⟩
  · rw [State.x_advance]
    exact (s.x_setX x x v).trans (if_pos rfl)
  · exact (s.reg_setX x v j q).trans (if_neg hkept)

/-- An instruction that writes `sX` alone keeps the flags: writing to them what they hold changes nothing. -/
theorem aluEffect_of_setX (h : exec i s = .next (s.setX x v).advance) : AluEffect i s x v s.z s.c :=
  aluEffect_of_exec h

theorem isZero_eq_decide (r : Byte) : isZero r = decide (r = 0) := rfl

/-- `Z` follows the result an instruction writes. -/
theorem aluEffect_of_aluWrite (h : exec i s = s.aluWrite x (.of v c)) : AluEffect i s x v (decide (v = 0)) c :=
  isZero_eq_decide v ▸ aluEffect_of_exec h

end AluResult

/-! ## Load and logical (40_load_logical.md) -/

/-- Settles O14: neither form's meaning writes a flag. -/
theorem loadCopiesTheOperand : Obligations.LoadCopiesTheOperand :=
  ⟨decodesRR_ungated fun _ _ _ => ⟨rfl, rfl, rfl⟩, decodesRK_ungated fun _ _ _ => ⟨rfl, rfl, rfl⟩,
    fun _ _ _ _ => ⟨aluEffect_of_setX rfl, aluEffect_of_setX rfl⟩⟩

/-- Settles O15: each form writes its result with the carry 0. -/
theorem logicalWritesResultAndClearsCarry : Obligations.LogicalWritesResultAndClearsCarry :=
  ⟨decodesRR_ungated fun _ _ _ => ⟨rfl, rfl, rfl⟩, decodesRK_ungated fun _ _ _ => ⟨rfl, rfl, rfl⟩,
    decodesRR_ungated fun _ _ _ => ⟨rfl, rfl, rfl⟩, decodesRK_ungated fun _ _ _ => ⟨rfl, rfl, rfl⟩,
    decodesRR_ungated fun _ _ _ => ⟨rfl, rfl, rfl⟩, decodesRK_ungated fun _ _ _ => ⟨rfl, rfl, rfl⟩,
    fun _ _ _ _ => ⟨aluEffect_of_aluWrite rfl, aluEffect_of_aluWrite rfl, aluEffect_of_aluWrite rfl,
      aluEffect_of_aluWrite rfl, aluEffect_of_aluWrite rfl, aluEffect_of_aluWrite rfl⟩⟩

end Sys2Proof.Machine

namespace Sys2Proof.Machine

/-! ## Arithmetic (41_arithmetic.md)

The model's sums and differences, taken over the natural numbers and the integers, are said once on bytes. From these the effect
of each instruction follows for both forms of operand B (30_encoding.md R304). -/

section ByteArithmetic

theorem flagNat_eq_toNat (c : Bool) : flagNat c = c.toNat := by cases c <;> rfl

theorem byte_ofInt_sub (m n : Int) : BitVec.ofInt 8 (m - n) = BitVec.ofInt 8 m - BitVec.ofInt 8 n := by
  rw [Int.sub_eq_add_neg, BitVec.ofInt_add, BitVec.ofInt_neg, BitVec.sub_eq_add_neg]

theorem byte_ofNat_eq_zero_iff (n : Nat) : BitVec.ofNat 8 n = 0 ↔ n % 256 = 0 := by
  rw [← BitVec.toNat_inj, BitVec.toNat_ofNat]
  rfl

variable (a b : Byte) (cin : Bool)

theorem byte_sub_eq_zero_iff : a - b = 0 ↔ a = b := by
  rw [BitVec.sub_eq_iff_eq_add, show 0 + b = b from BitVec.zero_add b]

theorem addBytes_eq : addBytes a b cin =
    .of (BitVec.ofNat 8 (a.toNat + b.toNat + cin.toNat)) (decide (255 < a.toNat + b.toNat + cin.toNat)) := by
  rw [addBytes, flagNat_eq_toNat]

theorem addBytes_false : addBytes a b false = .of (a + b) (decide (255 < a.toNat + b.toNat)) := by
  simp only [addBytes_eq, Bool.toNat_false, Nat.add_zero, BitVec.ofNat_add, BitVec.ofNat_toNat, BitVec.setWidth_eq]

/-- The integer difference is negative exactly when what is subtracted exceeds `a`. -/
theorem subBytes_eq : subBytes a b cin =
    .of (a - b - BitVec.ofNat 8 cin.toNat) (decide (a.toNat < b.toNat + cin.toNat)) := by
  have hbyte : BitVec.ofInt 8 ((a.toNat : Int) - b.toNat - cin.toNat) = a - b - BitVec.ofNat 8 cin.toNat := by
    simp only [byte_ofInt_sub, BitVec.ofInt_natCast, BitVec.ofNat_toNat, BitVec.setWidth_eq]
  have hborrow : (a.toNat : Int) - b.toNat - cin.toNat < 0 ↔ a.toNat < b.toNat + cin.toNat := by omega
  rw [subBytes, flagNat_eq_toNat, hbyte, decide_eq_decide.2 hborrow]

theorem subBytes_false : subBytes a b false = .of (a - b) (decide (a.toNat < b.toNat)) := by
  simp only [subBytes_eq, Bool.toNat_false, Nat.add_zero, BitVec.sub_zero]

end ByteArithmetic

section ArithmeticEffect

variable {i : Instr} {s : State} {x : Reg}

/-- `Z` follows the result an instruction writes, in any other words for that result being 0. -/
theorem aluEffect_of_aluWrite_iff {v : Byte} {c : Bool} {p : Prop} [Decidable p] (hz : v = 0 ↔ p)
    (h : exec i s = s.aluWrite x (.of v c)) : AluEffect i s x v (decide p) c :=
  decide_eq_decide.2 hz ▸ aluEffect_of_aluWrite h

variable (b : OpB)

theorem aluEffect_of_add (h : exec i s = add x b s) : AluEffect i s x (s.x x + s.opB b) (decide (s.x x + s.opB b = 0))
    (decide (255 < (s.x x).toNat + (s.opB b).toNat)) :=
  aluEffect_of_aluWrite (by rw [h, add, addBytes_false])

theorem aluEffect_of_addcy (h : exec i s = addcy x b s) :
    AluEffect i s x (BitVec.ofNat 8 ((s.x x).toNat + (s.opB b).toNat + s.c.toNat))
      (decide (((s.x x).toNat + (s.opB b).toNat + s.c.toNat) % 256 = 0))
      (decide (255 < (s.x x).toNat + (s.opB b).toNat + s.c.toNat)) :=
  aluEffect_of_aluWrite_iff (byte_ofNat_eq_zero_iff _) (by rw [h, addcy, addBytes_eq])

theorem aluEffect_of_sub (h : exec i s = sub x b s) : AluEffect i s x (s.x x - s.opB b) (decide (s.x x = s.opB b))
    (decide ((s.x x).toNat < (s.opB b).toNat)) :=
  aluEffect_of_aluWrite_iff (byte_sub_eq_zero_iff _ _) (by rw [h, sub, subBytes_false])

theorem aluEffect_of_subcy (h : exec i s = subcy x b s) : AluEffect i s x (s.x x - s.opB b - BitVec.ofNat 8 s.c.toNat)
    (decide (s.x x - s.opB b - BitVec.ofNat 8 s.c.toNat = 0))
    (decide ((s.x x).toNat < (s.opB b).toNat + s.c.toNat)) :=
  aluEffect_of_aluWrite (by rw [h, subcy, subBytes_eq])

end ArithmeticEffect

/-- Settles O16: both forms are the sum without a carry in. -/
theorem addWritesSumAndOverflow : Obligations.AddWritesSumAndOverflow :=
  ⟨decodesRR_ungated fun _ _ _ => ⟨rfl, rfl, rfl⟩, decodesRK_ungated fun _ _ _ => ⟨rfl, rfl, rfl⟩,
    fun _ _ y kk => ⟨aluEffect_of_add (.reg y) rfl, aluEffect_of_add (.imm kk) rfl⟩⟩

/-- Settles O17: both forms are the sum with `C` carried in. -/
theorem addcyAddsTheCarry : Obligations.AddcyAddsTheCarry :=
  ⟨decodesRR_ungated fun _ _ _ => ⟨rfl, rfl, rfl⟩, decodesRK_ungated fun _ _ _ => ⟨rfl, rfl, rfl⟩,
    fun _ _ y kk => ⟨aluEffect_of_addcy (.reg y) rfl, aluEffect_of_addcy (.imm kk) rfl⟩⟩

/-- Settles O18: both forms are the difference without a borrow in, which is 0 exactly when the operands are equal. -/
theorem subWritesDifferenceAndBorrow : Obligations.SubWritesDifferenceAndBorrow :=
  ⟨decodesRR_ungated fun _ _ _ => ⟨rfl, rfl, rfl⟩, decodesRK_ungated fun _ _ _ => ⟨rfl, rfl, rfl⟩,
    fun _ _ y kk => ⟨aluEffect_of_sub (.reg y) rfl, aluEffect_of_sub (.imm kk) rfl⟩⟩

/-- Settles O19: both forms are the difference with `C` borrowed. -/
theorem subcySubtractsTheCarry : Obligations.SubcySubtractsTheCarry :=
  ⟨decodesRR_ungated fun _ _ _ => ⟨rfl, rfl, rfl⟩, decodesRK_ungated fun _ _ _ => ⟨rfl, rfl, rfl⟩,
    fun _ _ y kk => ⟨aluEffect_of_subcy (.reg y) rfl, aluEffect_of_subcy (.imm kk) rfl⟩⟩

end Sys2Proof.Machine

namespace Sys2Proof.Machine

/-! ## Test and compare (42_test_compare.md)

Both write only the flags (R500). A comparison's are those of the difference; a test's carry says whether
its one bits are odd in number, and every bit counted is one exclusive or in the model's parity. -/

section TestParity

/-- One bit more turns an odd count even, and an even one odd. -/
theorem decide_odd_add_toNat (n : Nat) (b : Bool) :
    decide ((n + b.toNat) % 2 = 1) = (decide (n % 2 = 1) ^^ b) := by
  cases b with
  | false => rw [Bool.toNat_false, Nat.add_zero, Bool.xor_false]
  | true =>
    have hflip : (n + 1) % 2 = 1 ↔ ¬n % 2 = 1 := by omega
    rw [Bool.toNat_true, Bool.xor_true, decide_eq_decide.2 hflip, decide_not]

theorem countP_range_succ (p : Nat → Bool) (n : Nat) :
    (List.range (n + 1)).countP p = (List.range n).countP p + (p n).toNat := by
  rw [List.range_succ, List.countP_append, List.countP_singleton]
  cases p n <;> rfl

theorem decide_odd_countP_range_succ (p : Nat → Bool) (n : Nat) :
    decide ((List.range (n + 1)).countP p % 2 = 1) = (p n ^^ decide ((List.range n).countP p % 2 = 1)) := by
  rw [countP_range_succ, decide_odd_add_toNat, Bool.xor_comm]

theorem decide_odd_countP_range_zero (p : Nat → Bool) : decide ((List.range 0).countP p % 2 = 1) = false := rfl

theorem parity8_eq_decide_odd (v : Byte) :
    parity8 v = decide (((List.range 8).countP fun j => v.getLsbD j) % 2 = 1) := by
  simp only [decide_odd_countP_range_succ, decide_odd_countP_range_zero, Bool.xor_false, parity8, Bool.xor_assoc]

/-- The carry of a test is 1 when the one bits of the conjunction, with the carry in as one more, are odd in number (D14). -/
theorem testBytes_eq (a b : Byte) (cin : Bool) : testBytes a b cin =
    .of (a &&& b) (decide ((((List.range 8).countP fun j => (a &&& b).getLsbD j) + cin.toNat) % 2 = 1)) := by
  rw [testBytes, decide_odd_add_toNat, parity8_eq_decide_odd]

end TestParity

section FlagResult

variable {i : Instr} {s : State}

theorem flagEffect_of_exec {z c : Bool} (h : exec i s = .next (s.setFlags z c).advance) : FlagEffect i s z c :=
  ⟨_, h, rfl, rfl, pcAdvanced_advance _, ⟨rfl, fun _ _ => rfl⟩, ⟨rfl, rfl⟩, rfl, fun _ => rfl, ⟨rfl, rfl⟩,
    ⟨rfl, rfl, rfl, rfl, rfl⟩⟩

/-- `Z` follows the result an instruction drops, in any words for that result being 0. -/
theorem flagEffect_of_aluFlags {v : Byte} {c : Bool} {p : Prop} [Decidable p] (hz : v = 0 ↔ p)
    (h : exec i s = s.aluFlags (.of v c)) : FlagEffect i s (decide p) c := by
  rw [← decide_eq_decide.2 hz, ← isZero_eq_decide]
  exact flagEffect_of_exec h

variable {x : Reg}

theorem flagEffect_of_testBytes {b : Byte} {cin : Bool} (h : exec i s = s.aluFlags (testBytes (s.x x) b cin)) :
    FlagEffect i s (decide (s.x x &&& b = 0))
      (decide ((((List.range 8).countP fun j => (s.x x &&& b).getLsbD j) + cin.toNat) % 2 = 1)) :=
  flagEffect_of_aluFlags .rfl (by rw [h, testBytes_eq])

variable (b : OpB)

theorem flagEffect_of_compare (h : exec i s = compare x b s) :
    FlagEffect i s (decide (s.x x = s.opB b)) (decide ((s.x x).toNat < (s.opB b).toNat)) :=
  flagEffect_of_aluFlags (byte_sub_eq_zero_iff _ _) (by rw [h, compare, subBytes_false])

theorem flagEffect_of_comparecy (h : exec i s = comparecy x b s) :
    FlagEffect i s (decide (s.x x - s.opB b - BitVec.ofNat 8 s.c.toNat = 0))
      (decide ((s.x x).toNat < (s.opB b).toNat + s.c.toNat)) :=
  flagEffect_of_aluFlags .rfl (by rw [h, comparecy, subBytes_eq])

end FlagResult

/-- Without `HAS_CY_OPS` the rows of `TESTCY` and `COMPARECY` are among the words R331 lists. -/
theorem listedUnassigned_of_not_hasCyOps {op : Nat} (hop : op ∈ [0x0E, 0x0F, 0x1E, 0x1F]) (k : Cfg) (low : Nat)
    (hgate : k.hasCyOps = false) : listedUnassigned k op low :=
  .inr (.inr (.inl ⟨hgate, hop⟩))

/-- Settles O20: all four forms test with a carry in, which `TEST` has as 0. -/
theorem testSetsZeroAndOddParity : Obligations.TestSetsZeroAndOddParity := by
  refine ⟨decodesRR_ungated fun _ _ _ => ⟨rfl, rfl, rfl⟩, decodesRK_ungated fun _ _ _ => ⟨rfl, rfl, rfl⟩,
    decodesRR (fun _ _ _ => ⟨rfl, rfl, rfl⟩) (listedUnassigned_of_not_hasCyOps (by decide)),
    decodesRK (fun _ _ _ => ⟨rfl, rfl, rfl⟩) (listedUnassigned_of_not_hasCyOps (by decide)), ?_⟩
  intro s x y kk i b cin hform
  simp only [List.mem_cons, List.not_mem_nil, or_false, Prod.mk.injEq] at hform
  obtain ⟨rfl, rfl, rfl⟩ | ⟨rfl, rfl, rfl⟩ | ⟨rfl, rfl, rfl⟩ | ⟨rfl, rfl, rfl⟩ := hform
  · exact flagEffect_of_testBytes (cin := false) rfl
  · exact flagEffect_of_testBytes (cin := false) rfl
  · exact flagEffect_of_testBytes rfl
  · exact flagEffect_of_testBytes rfl

/-- Settles O21: both forms have the flags of the difference, which is 0 exactly when the operands are equal. -/
theorem compareSetsEqualAndGreater : Obligations.CompareSetsEqualAndGreater :=
  ⟨decodesRR_ungated fun _ _ _ => ⟨rfl, rfl, rfl⟩, decodesRK_ungated fun _ _ _ => ⟨rfl, rfl, rfl⟩,
    fun _ _ y kk => ⟨flagEffect_of_compare (.reg y) rfl, flagEffect_of_compare (.imm kk) rfl⟩⟩

/-- Settles O22: both forms have the flags of the difference with `C` borrowed. -/
theorem comparecyCountsTheCarryIn : Obligations.ComparecyCountsTheCarryIn :=
  ⟨decodesRR (fun _ _ _ => ⟨rfl, rfl, rfl⟩) (listedUnassigned_of_not_hasCyOps (by decide)),
    decodesRK (fun _ _ _ => ⟨rfl, rfl, rfl⟩) (listedUnassigned_of_not_hasCyOps (by decide)),
    fun _ _ y kk => ⟨flagEffect_of_comparecy (.reg y) rfl, flagEffect_of_comparecy (.imm kk) rfl⟩⟩

end Sys2Proof.Machine

namespace Sys2Proof.Machine

/-! ## Shifts, rotates, `HWBUILD` (43_shift_rotate.md)

The ten shifts differ in the bit moved in alone (R549): each way, what a shift does is said once for every such bit. -/

section ShiftRows

/-- Field `Y` is the high half of the low byte. -/
theorem fieldY_toNat (w : InsnWord) : (fieldY w).toNat = (fieldKK w).toNat / 16 := by
  simp only [fieldY, fieldKK, extract_toNat]; omega

/-- A word whose ignored bits are 0 is not the sentinel of `HWBUILD`. -/
theorem fieldKK_ne_sentinel_of_fieldY {w : InsnWord} (hy : fieldY w = 0#4) : fieldKK w ≠ 0x80#8 := by
  intro hkk
  have hhigh := fieldY_toNat w
  rw [hy, hkk] at hhigh
  exact absurd hhigh (by decide)

theorem decodesSH {code : BitVec 4} {f : Reg → Instr}
    (hrow : ∀ k x, (f x).wf k = true ∧ formatMask (f x) = 0x3FF0F#18 ∧ encode (f x) = wordSH x code) :
    DecodesSH code f := by
  rintro k w hop hy rfl
  obtain ⟨hwf, hmask, hword⟩ := hrow k (fieldX w)
  have hagree : w &&& formatMask (f (fieldX w)) = encode (f (fieldX w)) := by
    rw [hmask, hword]
    exact agrees_wordSH_iff.2 ⟨congrArg BitVec.toNat hop, rfl, rfl⟩
  exact decode_eq_iff_reads.2 ⟨hwf, hagree, fun _ _ => fieldKK_ne_sentinel_of_fieldY hy⟩

end ShiftRows

section ShiftEffect

variable (v : Byte) (b : Bool)

/-! A shifted byte is the bit moved in and seven bits of the old one, put side by side. -/

theorem shiftLeft_getLsbD (j : Nat) : (shiftLeft v b).r.getLsbD j =
    if j < 1 then (BitVec.ofBool b).getLsbD j else (v.extractLsb' 0 7).getLsbD (j - 1) :=
  BitVec.getLsbD_append

theorem shiftRight_getLsbD (j : Nat) : (shiftRight v b).r.getLsbD j =
    if j < 7 then (v.extractLsb' 1 7).getLsbD j else (BitVec.ofBool b).getLsbD (j - 7) :=
  BitVec.getLsbD_append

theorem shiftLeft_bit_zero : (shiftLeft v b).r.getLsbD 0 = b := by
  rw [shiftLeft_getLsbD]; simp

theorem shiftLeft_bit_succ {j : Nat} (hj : j < 7) : (shiftLeft v b).r.getLsbD (j + 1) = v.getLsbD j := by
  simp [shiftLeft_getLsbD, hj]

theorem shiftRight_bit_seven : (shiftRight v b).r.getLsbD 7 = b := by
  rw [shiftRight_getLsbD]; simp

theorem shiftRight_bit_of_lt {j : Nat} (hj : j < 7) : (shiftRight v b).r.getLsbD j = v.getLsbD (j + 1) := by
  simp [shiftRight_getLsbD, hj, Nat.add_comm]

variable {v b} {i : Instr} {s : State} {x : Reg}

theorem aluEffect_of_shiftLeftReg (h : exec i s = shiftLeftReg x b s) :
    ∃ r : Byte, r.getLsbD 0 = b ∧ (∀ j, j < 7 → r.getLsbD (j + 1) = (s.x x).getLsbD j) ∧
      AluEffect i s x r (decide (r = 0)) ((s.x x).getLsbD 7) :=
  ⟨_, shiftLeft_bit_zero _ b, fun _ => shiftLeft_bit_succ _ b, aluEffect_of_aluWrite h⟩

theorem aluEffect_of_shiftRightReg (h : exec i s = shiftRightReg x b s) :
    ∃ r : Byte, r.getLsbD 7 = b ∧ (∀ j, j < 7 → r.getLsbD j = (s.x x).getLsbD (j + 1)) ∧
      AluEffect i s x r (decide (r = 0)) ((s.x x).getLsbD 0) :=
  ⟨_, shiftRight_bit_seven _ b, fun _ => shiftRight_bit_of_lt _ b, aluEffect_of_aluWrite h⟩

end ShiftEffect

/-- Settles O23: each listed instruction is the left shift with its own bit moved in. -/
theorem leftShiftsMoveBitSevenToCarry : Obligations.LeftShiftsMoveBitSevenToCarry := by
  refine ⟨decodesSH fun _ _ => ⟨rfl, rfl, rfl⟩, decodesSH fun _ _ => ⟨rfl, rfl, rfl⟩, decodesSH fun _ _ => ⟨rfl, rfl, rfl⟩,
    decodesSH fun _ _ => ⟨rfl, rfl, rfl⟩, decodesSH fun _ _ => ⟨rfl, rfl, rfl⟩, ?_⟩
  intro s x i b hform
  simp only [List.mem_cons, List.not_mem_nil, or_false, Prod.mk.injEq] at hform
  obtain ⟨rfl, rfl⟩ | ⟨rfl, rfl⟩ | ⟨rfl, rfl⟩ | ⟨rfl, rfl⟩ | ⟨rfl, rfl⟩ := hform <;>
    exact aluEffect_of_shiftLeftReg rfl

/-- Settles O24: each listed instruction is the right shift with its own bit moved in. -/
theorem rightShiftsMoveBitZeroToCarry : Obligations.RightShiftsMoveBitZeroToCarry := by
  refine ⟨decodesSH fun _ _ => ⟨rfl, rfl, rfl⟩, decodesSH fun _ _ => ⟨rfl, rfl, rfl⟩, decodesSH fun _ _ => ⟨rfl, rfl, rfl⟩,
    decodesSH fun _ _ => ⟨rfl, rfl, rfl⟩, decodesSH fun _ _ => ⟨rfl, rfl, rfl⟩, ?_⟩
  intro s x i b hform
  simp only [List.mem_cons, List.not_mem_nil, or_false, Prod.mk.injEq] at hform
  obtain ⟨rfl, rfl⟩ | ⟨rfl, rfl⟩ | ⟨rfl, rfl⟩ | ⟨rfl, rfl⟩ | ⟨rfl, rfl⟩ := hform <;>
    exact aluEffect_of_shiftRightReg rfl

/-- The sentinel word is `HWBUILD` where the configuration has it, and `SLA` where not (R320, D32). -/
theorem decode_sentinel {k : Cfg} {w : InsnWord} (hop : fieldOp w = 0x14#6) (hkk : fieldKK w = 0x80#8) :
    decode k w = if k.hasBank then .instr (.hwbuild (fieldX w)) else .instr (.sla (fieldX w)) := by
  have hop' : (fieldOp w).toNat = 0x14 := congrArg BitVec.toNat hop
  have hcode : (fieldCode w).toNat = 0 := by rw [fieldCode_toNat, hkk]; rfl
  split
  next hbank => exact decode_eq_iff_reads.2 ⟨hbank, agrees_wordRK_iff.2 ⟨hop', rfl, hkk⟩, fun _ => nofun⟩
  next hbank =>
    exact decode_eq_iff_reads.2 ⟨rfl, agrees_wordSH_iff.2 ⟨hop', rfl, hcode⟩, fun h => absurd h hbank⟩

/-- Settles O25: the sentinel word's decode, and a write of the identifier with the carry 1. -/
theorem hwbuildReadsTheIdentifier : Obligations.HwbuildReadsTheIdentifier :=
  ⟨fun _ _ => decode_sentinel, fun _ _ => aluEffect_of_aluWrite rfl⟩

end Sys2Proof.Machine

namespace Sys2Proof.Machine

/-! ## Scratch pad and ports (44_memory_io.md)

The register form and the immediate form of an instruction are one meaning, of operand B (R600). Both write forms of a port, with
the constant form of `OUTPUTK`, are one write dispatch. -/

/-- An instruction listed with its operand, in register or immediate form, is its meaning `m` of operand B. -/
theorem exec_of_mem_forms {s : State} {i iReg iImm : Instr} {y : Reg} {kk v : Byte} {m : OpB → State → Result}
    (hreg : exec iReg s = m (.reg y) s) (himm : exec iImm s = m (.imm kk) s)
    (hform : (i, v) ∈ [(iReg, s.x y), (iImm, kk)]) : ∃ b, exec i s = m b s ∧ s.opB b = v := by
  simp only [List.mem_cons, List.not_mem_nil, or_false, Prod.mk.injEq] at hform
  obtain ⟨rfl, rfl⟩ | ⟨rfl, rfl⟩ := hform
  · exact ⟨.reg y, hreg, rfl⟩
  · exact ⟨.imm _, himm, rfl⟩

/-! ### Scratch pad -/

/-- Settles O26: both forms write the byte at operand B to `sX` alone. -/
theorem fetchLoadsAScratchByte : Obligations.FetchLoadsAScratchByte :=
  ⟨decodesRR_ungated fun _ _ _ => ⟨rfl, rfl, rfl⟩, decodesRK_ungated fun _ _ _ => ⟨rfl, rfl, rfl⟩,
    fun _ _ _ _ => ⟨aluEffect_of_setX rfl, aluEffect_of_setX rfl⟩⟩

/-- Settles O27: both forms are a write at operand B, and a read sees it exactly when it reaches the same location (R212). -/
theorem storeWritesOneScratchByte : Obligations.StoreWritesOneScratchByte := by
  refine ⟨decodesRR_ungated fun _ _ _ => ⟨rfl, rfl, rfl⟩, decodesRK_ungated fun _ _ _ => ⟨rfl, rfl, rfl⟩, ?_⟩
  intro s x y ss i ea hform
  obtain ⟨b, hexec, rfl⟩ := exec_of_mem_forms (m := storeScratch x) rfl rfl hform
  refine ⟨_, hexec, fun d => ?_, pcAdvanced_advance _, ⟨rfl, fun _ _ => rfl⟩, ⟨rfl, rfl⟩, ⟨rfl, rfl⟩, rfl, ⟨rfl, rfl⟩,
    ⟨rfl, rfl, rfl, rfl, rfl⟩⟩
  exact (s.memRead_memWrite (s.opB b) (s.x x) d).trans (ite_congr (propext eq_comm) (fun _ => rfl) fun _ => rfl)

/-! ### Ports

A port number is a router address of the same value (R230, D20). -/

theorem portAddr_eq_ofNat (p : Byte) : portAddr p = BitVec.ofNat 12 p.toNat := (BitVec.ofNat_toNat ..).symm

@[simp] theorem portAddr_toNat (p : Byte) : (portAddr p).toNat = p.toNat := BitVec.toNat_setWidth_of_le (by decide)

@[simp] theorem outputkPort_toNat (p : BitVec 4) : (outputkPort p).toNat = p.toNat :=
  BitVec.toNat_setWidth_of_le (by decide)

/-- A port read changes the log and the number of the next draw alone: one entry of the answer, which is 0 from an unbound port and
the next draw from a bound one (R231, R233). -/
theorem State.portRead_dispatch (s : State) (p : Byte) : ∃ v n,
    s.portRead p = (v, { s with
      log := s.log ++ [.portAccess .read (BitVec.ofNat 12 p.toNat) (Sparse.lookup s.rt p.toNat) v], draws := n }) ∧
    (Sparse.lookup s.rt p.toNat = none → v = 0 ∧ n = s.draws) ∧
    ∀ r, Sparse.lookup s.rt p.toNat = some r → v = Config.deviceValue s.draws r.device r.index ∧ n = s.draws + 1 := by
  rw [← portAddr_eq_ofNat, ← portAddr_toNat]
  obtain ⟨r, hr, hread⟩ | ⟨hr, hread⟩ := s.portRead_cases p <;> rw [hr]
  · exact ⟨_, _, hread, nofun, fun _ hsome => by cases hsome; exact ⟨rfl, rfl⟩⟩
  · exact ⟨_, _, hread, fun _ => ⟨rfl, rfl⟩, nofun⟩

/-- Settles O28: both forms are a port read at operand B, whose answer goes to `sX`. -/
theorem inputTakesOneReadDispatch : Obligations.InputTakesOneReadDispatch := by
  refine ⟨decodesRR_ungated fun _ _ _ => ⟨rfl, rfl, rfl⟩, decodesRK_ungated fun _ _ _ => ⟨rfl, rfl, rfl⟩, ?_⟩
  intro s x y pp i p hform
  obtain ⟨b, hexec, rfl⟩ := exec_of_mem_forms (m := inputPort x) rfl rfl hform
  obtain ⟨v, n, hread, hunbound, hbound⟩ := s.portRead_dispatch (s.opB b)
  rw [inputPort, hread] at hexec
  refine ⟨_, v, hexec, ?_, hunbound, hbound, rfl, pcAdvanced_advance _, ⟨rfl, fun j q hkept => ?_⟩, ⟨rfl, rfl⟩, ⟨rfl, rfl⟩,
    rfl, fun _ => rfl, ⟨rfl, rfl, rfl, rfl, rfl⟩⟩
  · rw [State.x_advance, State.x_setX, if_pos rfl]
  · exact (State.reg_setX _ x v j q).trans (if_neg hkept)

/-- Instruction `i` completes with one write dispatch of `v` to port `n`, the next address in `pc`, and all else as before. -/
def OutputEffect (i : Instr) (s : State) (n : Nat) (v : Byte) : Prop :=
  ∃ t, exec i s = .next t ∧
    t.log = s.log ++ [.portAccess .write (BitVec.ofNat 12 n) (Sparse.lookup s.wt n) v] ∧
    t.draws = s.draws ∧ PcAdvanced s t ∧ RegsKept s t ∧ FlagsKept s t ∧ IntKept s t ∧ StackKept s t ∧
    ScratchKept s t ∧ ParamsKept s t

theorem outputEffect_of_exec {i : Instr} {s : State} {p v : Byte} (h : exec i s = .next (s.portWrite p v).advance) :
    OutputEffect i s p.toNat v := by
  refine ⟨_, h, ?_, rfl, pcAdvanced_advance _, ⟨rfl, fun _ _ => rfl⟩, ⟨rfl, rfl⟩, ⟨rfl, rfl⟩, rfl, fun _ => rfl,
    ⟨rfl, rfl, rfl, rfl, rfl⟩⟩
  rw [← portAddr_eq_ofNat, ← portAddr_toNat]
  rfl

/-- Settles O29: both forms are a write dispatch at operand B. -/
theorem outputMakesOneWriteDispatch : Obligations.OutputMakesOneWriteDispatch := by
  refine ⟨decodesRR_ungated fun _ _ _ => ⟨rfl, rfl, rfl⟩, decodesRK_ungated fun _ _ _ => ⟨rfl, rfl, rfl⟩, ?_⟩
  intro s x y pp i p hform
  obtain ⟨b, hexec, rfl⟩ := exec_of_mem_forms (m := outputPort x) rfl rfl hform
  exact outputEffect_of_exec hexec

/-- Without `KCPSM6_EXTRAS` the rows of `LOAD&RETURN` and `OUTPUTK` are among the words R331 lists. -/
theorem listedUnassigned_of_not_kcpsm6Extras {op : Nat} (hop : op ∈ [0x21, 0x2B]) {k : Cfg} (low : Nat)
    (hgate : k.kcpsm6Extras = false) : listedUnassigned k op low :=
  .inr (.inr (.inr (.inr (.inr (.inr ⟨hgate, hop⟩)))))

/-- The row of `OUTPUTK`, the one row of format `KP`. -/
theorem decode_outputk {k : Cfg} {w : InsnWord} (hop : fieldOp w = 0x2B#6) :
    decode k w = gated k.kcpsm6Extras w (.outputk (fieldKX w) (fieldP w)) := by
  have hagree : w &&& 0x3FFFF#18 = wordKP 0x2B#6 (fieldKX w) (fieldP w) :=
    agrees_wordKP_iff.2 ⟨congrArg BitVec.toNat hop, rfl, rfl⟩
  refine decode_eq_gated (m := 0x3FFFF#18) ⟨rfl, rfl, rfl⟩ (by decide) hagree ?_
  rw [hop]
  exact listedUnassigned_of_not_kcpsm6Extras (by decide) _

/-- Settles O30: a write dispatch at the 4-bit port, zero-extended. -/
theorem outputkWritesAConstant : Obligations.OutputkWritesAConstant :=
  ⟨fun _ _ => decode_outputk, fun _ _ p => outputkPort_toNat p ▸ outputEffect_of_exec rfl⟩

end Sys2Proof.Machine

namespace Sys2Proof.Machine

/-! ## Register banks (45_bank.md)

A write to the bank selector exchanges no file (D16): a register is read through the new selector, from the file it was in. -/

theorem decodesB1 {op : BitVec 6} {g : Cfg → Bool} {b : Bool} {i : Instr}
    (hrow : ∀ k, i.wf k = g k ∧ formatMask i = 0x3F001#18 ∧ encode i = wordB1 op b)
    (hlisted : ∀ k low, g k = false → listedUnassigned k op.toNat low) : DecodesB1 op g b i := by
  rintro k w rfl - rfl
  exact decode_eq_gated (hrow k) (by decide) (agrees_wordB1_iff.2 ⟨rfl, rfl⟩) (hlisted k _)

/-- Without `HAS_BANK` the row of `REGBANK` is among the words R331 lists. -/
theorem listedUnassigned_of_not_hasBank (k : Cfg) (low : Nat) (hgate : k.hasBank = false) : listedUnassigned k 0x37 low :=
  .inr (.inr (.inr (.inr (.inl ⟨hgate, rfl⟩))))

/-- Without `KCPSM6_EXTRAS` or without `HAS_BANK` the rows of `STAR` are among the words R331 lists. -/
theorem listedUnassigned_of_not_extras_and_bank {op : Nat} (hop : op ∈ [0x16, 0x17]) (k : Cfg) (low : Nat)
    (hgate : (k.kcpsm6Extras && k.hasBank) = false) : listedUnassigned k op low :=
  .inr (.inr (.inr (.inr (.inr (.inl ⟨hgate, hop⟩)))))

/-! ### `REGBANK` -/

section SetBank

variable {s : State} (h : s.cfg.hasBank = true) (k : Bank)
include h

theorem State.setBank_bank_of_hasBank : (s.setBank k).bank = k := (s.setBank_bank k).trans (if_pos h)

theorem State.activeBank_setBank : (s.setBank k).activeBank = k :=
  (if_pos h).trans (State.setBank_bank_of_hasBank h k)

theorem State.x_setBank (r : Reg) : (s.setBank k).x r = s.reg k r := by
  rw [State.x, State.activeBank_setBank h, State.reg_setBank]

end SetBank

/-- Settles O31: both instructions only select, and what is read through the selector is the selected bank's file. -/
theorem regbankSelectsTheBank : Obligations.RegbankSelectsTheBank := by
  refine ⟨decodesB1 (fun _ => ⟨rfl, rfl, rfl⟩) listedUnassigned_of_not_hasBank,
    decodesB1 (fun _ => ⟨rfl, rfl, rfl⟩) listedUnassigned_of_not_hasBank, ?_⟩
  intro s hbank i k hform
  have hexec : exec i s = selectBank k s := by
    simp only [List.mem_cons, List.not_mem_nil, or_false, Prod.mk.injEq] at hform
    obtain ⟨rfl, rfl⟩ | ⟨rfl, rfl⟩ := hform <;> rfl
  exact ⟨_, hexec, State.setBank_bank_of_hasBank hbank k, State.x_setBank hbank k, fun _ _ => rfl, pcAdvanced_advance _,
    ⟨rfl, rfl⟩, ⟨rfl, rfl⟩, rfl, fun _ => rfl, ⟨rfl, rfl⟩, ⟨rfl, rfl, rfl, rfl, rfl⟩⟩

/-! ### `STAR` -/

theorem Bank.eq_other_of_ne : ∀ {j k : Bank}, j ≠ k → j = k.other
  | .a, .b, _ | .b, .a, _ => rfl
  | .a, .a, h | .b, .b, h => absurd rfl h

/-- Settles O32: both forms write operand B to `sX` of the one bank that is not active. -/
theorem starWritesTheInactiveBank : Obligations.StarWritesTheInactiveBank := by
  refine ⟨decodesRR (fun _ _ _ => ⟨rfl, rfl, rfl⟩) (listedUnassigned_of_not_extras_and_bank (by decide)),
    decodesRK (fun _ _ _ => ⟨rfl, rfl, rfl⟩) (listedUnassigned_of_not_extras_and_bank (by decide)), ?_⟩
  intro s hbank x y kk i v hform other hother
  obtain ⟨b, hexec, rfl⟩ := exec_of_mem_forms (m := star x) rfl rfl hform
  obtain rfl := Bank.eq_other_of_ne hother
  have hreg := s.reg_setInactive hbank x (s.opB b)
  exact ⟨_, hexec, (hreg _ x).trans (if_pos ⟨rfl, rfl⟩), ⟨rfl, fun j q hkept => (hreg j q).trans (if_neg hkept)⟩,
    pcAdvanced_advance _, ⟨rfl, rfl⟩, ⟨rfl, rfl⟩, rfl, fun _ => rfl, ⟨rfl, rfl⟩, ⟨rfl, rfl, rfl, rfl, rfl⟩⟩

end Sys2Proof.Machine

namespace Sys2Proof.Machine

/-! ## Jump, call, return (46_control.md)

A conditional form does what its unconditional form does, or advances (R700). A call or a return resets the core or replaces the
stack and `pc` (R710, R730), so the effect of every call and of every return is said once. -/

/-! ### Rows and conditions -/

theorem decodesJA {op : BitVec 6} {f : Addr → Instr}
    (hrow : ∀ k a, (f a).wf k = true ∧ formatMask (f a) = 0x3FFFF#18 ∧ encode (f a) = wordJA op a) : DecodesJA op f := by
  rintro k w rfl
  exact decode_eq_gated (hrow k _) (by decide) (agrees_wordJA_iff.2 ⟨rfl, rfl⟩) nofun

theorem decodesRT {op : BitVec 6} {i : Instr}
    (hrow : ∀ k, i.wf k = true ∧ formatMask i = 0x3F000#18 ∧ encode i = wordRT op) : DecodesRT op i := by
  rintro k w rfl -
  exact decode_eq_gated (hrow k) (by decide) (agrees_wordRT_iff.2 rfl) nofun

/-- Without `HAS_INDIRECT` the rows of `JUMP@` and `CALL@` are among the words R331 lists. -/
theorem listedUnassigned_of_not_hasIndirect {op : Nat} (hop : op ∈ [0x24, 0x26]) (k : Cfg) (low : Nat)
    (hgate : k.hasIndirect = false) : listedUnassigned k op low :=
  .inr (.inr (.inr (.inl ⟨hgate, hop⟩)))

theorem Cond.holds_iff_condTrue {k : Cond} {s : State} : k.holds s = true ↔ condTrue k s := by
  cases k with
  | z | c => exact .rfl
  | nz | nc => exact iff_of_eq (Bool.not_eq_true' _)

theorem State.indirectTarget_toNat (s : State) (x y : Reg) :
    (s.indirectTarget x y).toNat = (s.x x).toNat % 16 * 256 + (s.x y).toNat := by
  have hlow : ((s.x x).extractLsb' 0 4).toNat = (s.x x).toNat % 16 := BitVec.extractLsb'_toNat ..
  exact (append_toNat _ _).trans (congrArg (· * 256 + (s.x y).toNat) hlow)

/-- A word with a jump to itself is that jump and no other instruction (R830). -/
theorem State.selfJump_iff_of_decode {s : State} {i : Instr} (h : decode s.cfg (s.pmRead s.pc) = .instr i) :
    s.selfJump = true ↔ i = .jump s.pc := by
  rw [State.selfJump, State.fetch, h, beq_iff_eq, Decoded.instr.injEq]

theorem jumpOn_ne_jump (k : Cond) (a b : Addr) : jumpOn k a ≠ .jump b := by
  cases k <;> nofun

/-! ### The stack -/

section Stack

variable (s : State)

theorem State.callFrame_eq_frameOf : s.callFrame = frameOf s s.pc false := by
  rw [State.callFrame, State.frame, frameOf]
  split <;> rfl

theorem State.callTo_of_full (a : Addr) (hfull : s.stk.length = s.cfg.stackDepth) :
    s.callTo a = s.stackFault .overflow s.pc := by
  obtain ⟨-, hcall⟩ | ⟨hroom, -⟩ := s.callTo_cases a
  · exact hcall
  · exact absurd hfull hroom

theorem State.callTo_of_room (a : Addr) (hroom : s.stk.length ≠ s.cfg.stackDepth) :
    s.callTo a = (s.setStk (s.stk ++ [frameOf s s.pc false])).setPc a := by
  obtain ⟨hfull, -⟩ | ⟨-, hcall⟩ := s.callTo_cases a
  · exact absurd hfull hroom
  · rw [hcall, State.callFrame_eq_frameOf]

theorem State.returnToCaller_of_empty (hempty : s.stk = []) : s.returnToCaller = s.stackFault .underflow s.pc := by
  rw [State.returnToCaller, s.pop_empty hempty]

theorem State.returnToCaller_of_concat {rest : List Frame} {f : Frame} (hstk : s.stk = rest ++ [f]) :
    s.returnToCaller = (s.setStk rest).setPc (f.addr + 1#12) := by
  rw [State.returnToCaller, s.pop_concat hstk]

theorem exec_loadReturn_of_empty (x : Reg) (kk : Byte) (hempty : s.stk = []) :
    exec (.loadReturn x kk) s = .next (s.stackFault .underflow s.pc) := by
  change execLoadReturn x kk s = _
  rw [execLoadReturn, s.pop_empty hempty]

theorem exec_loadReturn_of_concat (x : Reg) (kk : Byte) {rest : List Frame} {f : Frame} (hstk : s.stk = rest ++ [f]) :
    exec (.loadReturn x kk) s = .next (((s.setStk rest).setX x kk).setPc (f.addr + 1#12)) := by
  change execLoadReturn x kk s = _
  rw [execLoadReturn, s.pop_concat hstk]

/-- New values for the stack and `pc` leave everything else as before. -/
theorem kept_setStk_setPc (l : List Frame) (a : Addr) :
    RegsKept s ((s.setStk l).setPc a) ∧ FlagsKept s ((s.setStk l).setPc a) ∧ IntKept s ((s.setStk l).setPc a) ∧
      ScratchKept s ((s.setStk l).setPc a) ∧ PortsKept s ((s.setStk l).setPc a) ∧ ParamsKept s ((s.setStk l).setPc a) :=
  ⟨⟨rfl, fun _ _ => rfl⟩, ⟨rfl, rfl⟩, ⟨rfl, rfl⟩, fun _ => rfl, ⟨rfl, rfl⟩, ⟨rfl, rfl, rfl, rfl, rfl⟩⟩

end Stack

/-! ### Effects -/

section ControlEffect

variable {i : Instr} {s t : State} {a : Addr} {k : Cond}

theorem jumpEffect_of_exec (h : exec i s = .next (s.setPc a)) : JumpEffect i s a :=
  ⟨_, h, rfl, ⟨rfl, fun _ _ => rfl⟩, ⟨rfl, rfl⟩, ⟨rfl, rfl⟩, rfl, fun _ => rfl, ⟨rfl, rfl⟩, ⟨rfl, rfl, rfl, rfl, rfl⟩⟩

theorem advanceEffect_of_exec (h : exec i s = .next s.advance) : AdvanceEffect i s :=
  ⟨_, h, pcAdvanced_advance s, ⟨rfl, fun _ _ => rfl⟩, ⟨rfl, rfl⟩, ⟨rfl, rfl⟩, rfl, fun _ => rfl, ⟨rfl, rfl⟩,
    ⟨rfl, rfl, rfl, rfl, rfl⟩⟩

theorem stackFaultEffect_of_exec {k : StackFaultKind} (h : exec i s = .next (s.stackFault k s.pc)) :
    StackFaultEffect i s k :=
  ⟨_, h, resetByStackFault_stackFault s k s.pc⟩

theorem callEffect_of_callTo (h : exec i s = .next (s.callTo a)) (hroom : s.stk.length ≠ s.cfg.stackDepth) :
    CallEffect i s (frameOf s s.pc false) a :=
  ⟨_, h.trans (congrArg _ (s.callTo_of_room a hroom)), rfl, rfl, kept_setStk_setPc s _ a⟩

theorem overflowEffect_of_callTo (h : exec i s = .next (s.callTo a)) (hfull : s.stk.length = s.cfg.stackDepth) :
    StackFaultEffect i s .overflow :=
  stackFaultEffect_of_exec (h.trans (congrArg _ (s.callTo_of_full a hfull)))

theorem returnEffect_of_returnToCaller {rest : List Frame} {f : Frame} (h : exec i s = .next s.returnToCaller)
    (hstk : s.stk = rest ++ [f]) : ReturnEffect i s rest f.addr :=
  ⟨_, h.trans (congrArg _ (s.returnToCaller_of_concat hstk)), BitVec.toNat_add .., rfl, kept_setStk_setPc s rest _⟩

theorem underflowEffect_of_returnToCaller (h : exec i s = .next s.returnToCaller) (hempty : s.stk = []) :
    StackFaultEffect i s .underflow :=
  stackFaultEffect_of_exec (h.trans (congrArg _ (s.returnToCaller_of_empty hempty)))

/-- A conditional instruction whose condition holds leaves what its unconditional form leaves. -/
theorem exec_of_condTrue (h : exec i s = .next (if k.holds s then t else s.advance)) (hk : condTrue k s) :
    exec i s = .next t := by
  rw [h, if_pos (Cond.holds_iff_condTrue.2 hk)]

/-- A conditional instruction whose condition does not hold only goes on (R700). -/
theorem advanceEffect_of_not_condTrue (h : exec i s = .next (if k.holds s then t else s.advance)) (hk : ¬condTrue k s) :
    AdvanceEffect i s :=
  advanceEffect_of_exec (by rw [h, if_neg (mt Cond.holds_iff_condTrue.1 hk)])

end ControlEffect

/-! ### What the conditional forms execute -/

theorem exec_jumpOn (k : Cond) (a : Addr) (s : State) :
    exec (jumpOn k a) s = .next (if k.holds s then s.setPc a else s.advance) := by
  cases k <;> rfl

theorem exec_callOn (k : Cond) (a : Addr) (s : State) :
    exec (callOn k a) s = .next (if k.holds s then s.callTo a else s.advance) := by
  cases k <;> rfl

theorem exec_retOn (k : Cond) (s : State) :
    exec (retOn k) s = .next (if k.holds s then s.returnToCaller else s.advance) := by
  cases k <;> rfl

/-! ### Jump -/

/-- Settles O33: the target is the new `pc`, and it is the instruction's own address exactly when the jump is a self-jump. -/
theorem jumpGoesToItsTarget : Obligations.JumpGoesToItsTarget := by
  refine ⟨decodesJA fun _ _ => ⟨rfl, rfl, rfl⟩, fun s a => ⟨jumpEffect_of_exec rfl, fun hdecode => ?_⟩⟩
  rw [State.selfJump_iff_of_decode hdecode, Instr.jump.injEq]

/-- Settles O34: the condition selects between jump and advance, and no conditional jump is the instruction `JUMP`. -/
theorem conditionalJumpFollowsItsCondition : Obligations.ConditionalJumpFollowsItsCondition := by
  refine ⟨decodesJA fun _ _ => ⟨rfl, rfl, rfl⟩, decodesJA fun _ _ => ⟨rfl, rfl, rfl⟩, decodesJA fun _ _ => ⟨rfl, rfl, rfl⟩,
    decodesJA fun _ _ => ⟨rfl, rfl, rfl⟩, fun s k a => ⟨fun hk => ?_, fun hk => ?_, fun hdecode => ?_⟩⟩
  · exact jumpEffect_of_exec (exec_of_condTrue (exec_jumpOn k a s) hk)
  · exact advanceEffect_of_not_condTrue (exec_jumpOn k a s) hk
  · exact Bool.eq_false_iff.2 (mt (State.selfJump_iff_of_decode hdecode).1 (jumpOn_ne_jump k a s.pc))

/-- Settles O35, at the joined target. -/
theorem indirectJumpJoinsTwoRegisters : Obligations.IndirectJumpJoinsTwoRegisters :=
  ⟨decodesRR (fun _ _ _ => ⟨rfl, rfl, rfl⟩) (listedUnassigned_of_not_hasIndirect (by decide)),
    fun s x y => ⟨s.indirectTarget x y, s.indirectTarget_toNat x y, jumpEffect_of_exec rfl⟩⟩

/-! ### Call -/

/-- Settles O36: with room the call pushes its own address, and on a full stack it resets. -/
theorem callPushesTheCallSite : Obligations.CallPushesTheCallSite :=
  ⟨decodesJA fun _ _ => ⟨rfl, rfl, rfl⟩, fun _ _ => ⟨callEffect_of_callTo rfl, overflowEffect_of_callTo rfl⟩⟩

/-- Settles O37: the condition selects between call and advance. -/
theorem conditionalCallFollowsItsCondition : Obligations.ConditionalCallFollowsItsCondition := by
  refine ⟨decodesJA fun _ _ => ⟨rfl, rfl, rfl⟩, decodesJA fun _ _ => ⟨rfl, rfl, rfl⟩, decodesJA fun _ _ => ⟨rfl, rfl, rfl⟩,
    decodesJA fun _ _ => ⟨rfl, rfl, rfl⟩, fun s k a => ⟨fun hk => ?_, fun hk => ?_, fun hk => ?_⟩⟩
  · exact callEffect_of_callTo (exec_of_condTrue (exec_callOn k a s) hk)
  · exact overflowEffect_of_callTo (exec_of_condTrue (exec_callOn k a s) hk)
  · exact advanceEffect_of_not_condTrue (exec_callOn k a s) hk

/-- Settles O38, at the joined target. -/
theorem indirectCallJoinsTwoRegisters : Obligations.IndirectCallJoinsTwoRegisters :=
  ⟨decodesRR (fun _ _ _ => ⟨rfl, rfl, rfl⟩) (listedUnassigned_of_not_hasIndirect (by decide)),
    fun s x y => ⟨s.indirectTarget x y, s.indirectTarget_toNat x y, callEffect_of_callTo rfl, overflowEffect_of_callTo rfl⟩⟩

/-! ### Return -/

/-- Settles O39: the return pops one frame and uses its address alone, and on an empty stack it resets. -/
theorem returnGoesPastTheCallSite : Obligations.ReturnGoesPastTheCallSite :=
  ⟨decodesRT fun _ => ⟨rfl, rfl, rfl⟩, fun _ _ _ => ⟨returnEffect_of_returnToCaller rfl, underflowEffect_of_returnToCaller rfl⟩⟩

/-- Settles O40: the condition selects between return and advance. -/
theorem conditionalReturnFollowsItsCondition : Obligations.ConditionalReturnFollowsItsCondition := by
  refine ⟨decodesRT fun _ => ⟨rfl, rfl, rfl⟩, decodesRT fun _ => ⟨rfl, rfl, rfl⟩, decodesRT fun _ => ⟨rfl, rfl, rfl⟩,
    decodesRT fun _ => ⟨rfl, rfl, rfl⟩, fun s k rest f => ⟨fun hk => ?_, fun hk => ?_, fun hk => ?_⟩⟩
  · exact returnEffect_of_returnToCaller (exec_of_condTrue (exec_retOn k s) hk)
  · exact underflowEffect_of_returnToCaller (exec_of_condTrue (exec_retOn k s) hk)
  · exact advanceEffect_of_not_condTrue (exec_retOn k s) hk

/-- Settles O41: with a frame on the stack the constant goes to `sX` alone, and on an empty stack the core resets instead. -/
theorem loadReturnLoadsAndReturns : Obligations.LoadReturnLoadsAndReturns := by
  refine ⟨decodesRK (fun _ _ _ => ⟨rfl, rfl, rfl⟩) fun _ => listedUnassigned_of_not_kcpsm6Extras (by decide),
    fun s x kk rest f => ⟨fun hstk => ?_, fun hempty => stackFaultEffect_of_exec (exec_loadReturn_of_empty s x kk hempty)⟩⟩
  refine ⟨_, exec_loadReturn_of_concat s x kk hstk, ?_, BitVec.toNat_add .., rfl, ⟨rfl, fun j q hkept => ?_⟩, ⟨rfl, rfl⟩,
    ⟨rfl, rfl⟩, fun _ => rfl, ⟨rfl, rfl⟩, ⟨rfl, rfl, rfl, rfl, rfl⟩⟩
  · exact ((s.setStk rest).x_setX x x kk).trans (if_pos rfl)
  · exact ((s.setStk rest).reg_setX x kk j q).trans (if_neg hkept)

end Sys2Proof.Machine

namespace Sys2Proof.Machine

/-! ## Interrupt control (47_interrupt_ctl.md)

`RETURNI` in each case of R783: on a frame whose context it gives back, on one that holds none to give back, and on one that is the
final fault of strict mode. -/

/-- An instruction listed with its bit answers what their shared meaning `m` answers for that bit. -/
theorem exec_of_mem_bitForms {s : State} {i iClear iSet : Instr} {b : Bool} {m : Bool → Result}
    (hclear : exec iClear s = m false) (hset : exec iSet s = m true)
    (hform : (i, b) ∈ [(iClear, false), (iSet, true)]) : exec i s = m b := by
  simp only [List.mem_cons, List.not_mem_nil, or_false, Prod.mk.injEq] at hform
  obtain ⟨rfl, rfl⟩ | ⟨rfl, rfl⟩ := hform
  · exact hclear
  · exact hset

/-- With a pending, enabled request, a cycle is the interrupt entry (60_exceptions.md R810). -/
theorem step_of_interrupt {s : State} (hie : s.ie = true) (hirq : s.irq = true) : step s = .next s.interruptEntry := by
  have htaken : s.interruptTaken = true := by rw [State.interruptTaken, hie, hirq]; rfl
  rw [step, if_pos htaken]

/-! ### What a frame gives back -/

theorem Frame.isInt_of_snap {f : Frame} {p : Snapshot} (hsnap : f.snap = some p) : f.isInt = p.isInt := by
  rw [Frame.isInt, hsnap]

theorem State.restore_of_interruptFrame {s : State} {f : Frame} {p : Snapshot} (hbank : s.cfg.hasBank = true)
    (hsnap : f.snap = some p) (hint : p.isInt = true) : s.restore f = (s.setFlags p.z p.c).setBank p.bank := by
  rw [State.restore, hsnap]
  exact if_pos (by rw [hbank, hint]; rfl)

theorem State.restore_of_otherFrame {s : State} {f : Frame} (hother : s.cfg.hasBank = false ∨ f.isInt = false) :
    s.restore f = s := by
  obtain ⟨p, hsnap, hbank, hint, -⟩ | ⟨-, hrestore⟩ := s.restore_cases f
  · simp [hbank, Frame.isInt_of_snap hsnap, hint] at hother
  · exact hrestore

/-! ### Return from interrupt -/

section ReturnFromInterrupt

variable {s : State} {rest : List Frame} {f : Frame} (b : Bool) (hstk : s.stk = rest ++ [f])
include hstk

theorem State.returnFromInterrupt_of_mismatch
    (hmismatch : s.cfg.hasBank = true ∧ f.isInt = false ∧ s.cfg.strictDecode = true) :
    s.returnFromInterrupt b = .fault (.frameMismatch f) := by
  obtain ⟨hbank, hint, hstrict⟩ := hmismatch
  rw [State.returnFromInterrupt, s.pop_concat hstk]
  exact if_pos (by rw [hbank, hint, hstrict]; rfl)

theorem State.returnFromInterrupt_of_concat
    (hmatch : ¬(s.cfg.hasBank = true ∧ f.isInt = false ∧ s.cfg.strictDecode = true)) :
    s.returnFromInterrupt b = .next ((((s.setStk rest).setPc f.addr).restore f).setIe b) := by
  rw [State.returnFromInterrupt, s.pop_concat hstk]
  exact if_neg (by simpa [and_assoc] using hmatch)

theorem State.returnFromInterrupt_of_interruptFrame {p : Snapshot} (hbank : s.cfg.hasBank = true)
    (hsnap : f.snap = some p) (hint : p.isInt = true) : s.returnFromInterrupt b =
      .next (((((s.setStk rest).setPc f.addr).setFlags p.z p.c).setBank p.bank).setIe b) := by
  have hmatch : ¬(s.cfg.hasBank = true ∧ f.isInt = false ∧ s.cfg.strictDecode = true) := by
    simp [Frame.isInt_of_snap hsnap, hint]
  have hrestore := State.restore_of_interruptFrame (s := (s.setStk rest).setPc f.addr) hbank hsnap hint
  rw [State.returnFromInterrupt_of_concat b hstk hmatch, hrestore]

theorem State.returnFromInterrupt_of_otherFrame
    (hother : s.cfg.hasBank = false ∨ f.isInt = false ∧ s.cfg.strictDecode = false) :
    s.returnFromInterrupt b = .next (((s.setStk rest).setPc f.addr).setIe b) := by
  have hmatch : ¬(s.cfg.hasBank = true ∧ f.isInt = false ∧ s.cfg.strictDecode = true) := by
    rintro ⟨hbank, -, hstrict⟩
    simp [hbank, hstrict] at hother
  have hrestore := State.restore_of_otherFrame (s := (s.setStk rest).setPc f.addr) (hother.imp_right And.left)
  rw [State.returnFromInterrupt_of_concat b hstk hmatch, hrestore]

end ReturnFromInterrupt

/-- Settles O45: a frame that is not the fault of strict mode gives back its address alone. -/
theorem returniOnOtherFramesKeepsTheFlags : Obligations.ReturniOnOtherFramesKeepsTheFlags := by
  intro s rest f i b hform hstk
  have hexec : exec i s = s.returnFromInterrupt b := exec_of_mem_bitForms rfl rfl hform
  refine ⟨fun hother => ?_, fun hmismatch => hexec.trans (State.returnFromInterrupt_of_mismatch b hstk hmismatch)⟩
  exact ⟨_, hexec.trans (State.returnFromInterrupt_of_otherFrame b hstk hother), rfl, rfl, rfl, rfl, ⟨rfl, fun _ _ => rfl⟩,
    ⟨rfl, rfl⟩, fun _ => rfl, ⟨rfl, rfl⟩, ⟨rfl, rfl, rfl, rfl, rfl⟩⟩

/-- Settles O44: an interrupt frame of the extended variant is never the fault of strict mode, and gives back all it holds. -/
theorem returniRestoresTheInterruptContext : Obligations.ReturniRestoresTheInterruptContext := by
  refine ⟨decodesB1 (fun _ => ⟨rfl, rfl, rfl⟩) nofun, decodesB1 (fun _ => ⟨rfl, rfl, rfl⟩) nofun, ?_⟩
  intro s rest f p i b hform hbank hstk hsnap hint
  have hexec : exec i s = s.returnFromInterrupt b := exec_of_mem_bitForms rfl rfl hform
  exact ⟨_, hexec.trans (State.returnFromInterrupt_of_interruptFrame b hstk hbank hsnap hint), rfl, rfl, rfl,
    State.setBank_bank_of_hasBank hbank p.bank, rfl, rfl, rfl, fun _ _ => rfl, fun _ => rfl, ⟨rfl, rfl⟩,
    ⟨rfl, rfl, rfl, rfl, rfl⟩⟩

/-! ### Interrupt enable -/

/-- Settles O43: only `IE` is written, so a latched request is still there and the next cycle takes it where `IE` is set. -/
theorem interruptControlSetsOnlyTheEnable : Obligations.InterruptControlSetsOnlyTheEnable := by
  refine ⟨decodesB1 (fun _ => ⟨rfl, rfl, rfl⟩) nofun, decodesB1 (fun _ => ⟨rfl, rfl, rfl⟩) nofun, ?_⟩
  intro s i b hform
  have hexec : exec i s = .next (s.setIe b).advance :=
    exec_of_mem_bitForms (m := fun b => .next (s.setIe b).advance) rfl rfl hform
  exact ⟨_, hexec, rfl, rfl, pcAdvanced_advance _, ⟨rfl, fun _ _ => rfl⟩, ⟨rfl, rfl⟩, rfl, fun _ => rfl, ⟨rfl, rfl⟩,
    ⟨rfl, rfl, rfl, rfl, rfl⟩, fun hie hirq => step_of_interrupt hie hirq⟩

end Sys2Proof.Machine

namespace Sys2Proof.Machine

/-! ## The cycle, interrupt entry and stack faults (60_exceptions.md R800 to R831) -/

/-- Without a pending, enabled request, a cycle on an unassigned word is what R330 says of that word. -/
theorem step_of_decode_unassigned {s : State} {w : InsnWord} (hint : ¬(s.ie = true ∧ s.irq = true))
    (hw : decode s.cfg (s.pmRead s.pc) = .unassigned w) : step s = s.runUnassigned w := by
  have htaken : ¬s.interruptTaken = true := by simpa [State.interruptTaken] using hint
  rw [step, if_neg htaken, State.fetch, hw]

/-- Settles O5. -/
theorem stepRunsTheDecodedInstruction : Obligations.StepRunsTheDecodedInstruction := fun _ =>
  ⟨fun hint => step_of_interrupt hint.1 hint.2,
    fun hint => ⟨fun _ hi => step_of_decode hint hi, fun _ hw => step_of_decode_unassigned hint hw⟩⟩

theorem State.intFrame_eq_frameOf (s : State) : s.intFrame = frameOf s s.pc true := by
  rw [State.intFrame, State.frame, frameOf]
  split <;> rfl

theorem State.interruptEntry_of_full {s : State} (hfull : s.stk.length = s.cfg.stackDepth) :
    s.interruptEntry = s.stackFault .overflow s.pc := by
  obtain ⟨-, hentry⟩ | ⟨hroom, -⟩ := s.interruptEntry_cases
  · exact hentry
  · exact absurd hfull hroom

/-- The state an interrupt entry leaves where the stack has room (R811). -/
def State.afterEntry (s : State) : State :=
  { s with
    ie := false, irq := false, stk := s.stk ++ [frameOf s s.pc true], pc := s.cfg.intVector
    log := s.log ++ [.interruptEntry s.pc] }

theorem State.interruptEntry_of_room {s : State} (hroom : s.stk.length ≠ s.cfg.stackDepth) :
    s.interruptEntry = s.afterEntry := by
  obtain ⟨hfull, -⟩ | ⟨-, hentry⟩ := s.interruptEntry_cases
  · exact absurd hfull hroom
  · simp only [hentry, State.intFrame_eq_frameOf, State.afterEntry, State.record, State.setPc, State.setStk, State.setIrq,
      State.setIe]

theorem step_of_interrupt_room {s : State} (hie : s.ie = true) (hirq : s.irq = true)
    (hroom : s.stk.length ≠ s.cfg.stackDepth) : step s = .next s.afterEntry :=
  (step_of_interrupt hie hirq).trans (congrArg _ (State.interruptEntry_of_room hroom))

/-- The entry of a pending, enabled request on a full stack is abandoned (R814). -/
theorem step_of_interrupt_full {s : State} (hie : s.ie = true) (hirq : s.irq = true)
    (hfull : s.stk.length = s.cfg.stackDepth) : ∃ t, step s = .next t ∧ ResetByStackFault s t .overflow s.pc :=
  ⟨_, (step_of_interrupt hie hirq).trans (congrArg _ (State.interruptEntry_of_full hfull)),
    resetByStackFault_stackFault s .overflow s.pc⟩

/-- Settles O8: with room the entry writes `IE`, `IRQ`, stack, `pc` and log alone, and on a full stack it is abandoned. -/
theorem interruptEntrySavesTheContext : Obligations.InterruptEntrySavesTheContext := by
  refine fun s hie hirq => ⟨fun hroom => ?_, step_of_interrupt_full hie hirq⟩
  exact ⟨_, step_of_interrupt_room hie hirq hroom, rfl, rfl, rfl, rfl, rfl, rfl, ⟨rfl, fun _ _ => rfl⟩, ⟨rfl, rfl⟩,
    fun _ => rfl, ⟨rfl, rfl, rfl, rfl, rfl⟩⟩

theorem State.returnFromInterrupt_of_empty {s : State} (hempty : s.stk = []) (b : Bool) :
    s.returnFromInterrupt b = .next (s.stackFault .underflow s.pc) := by
  rw [State.returnFromInterrupt, s.pop_empty hempty]

/-- Settles O10, one form after the other: those that push on a full stack, then those that pop an empty one. -/
theorem stackFaultAbandonsAndResets : Obligations.StackFaultAbandonsAndResets := by
  refine fun s => ⟨fun hfull => ⟨fun a => ?_, fun x y => ?_, fun k a hk => ?_, fun hie hirq => ?_⟩,
    fun hempty => ⟨?_, fun k hk => ?_, fun x kk => ?_, ?_, ?_⟩⟩
  · exact overflowEffect_of_callTo rfl hfull
  · exact overflowEffect_of_callTo rfl hfull
  · exact overflowEffect_of_callTo (exec_of_condTrue (exec_callOn k a s) hk) hfull
  · exact step_of_interrupt_full hie hirq hfull
  · exact underflowEffect_of_returnToCaller rfl hempty
  · exact underflowEffect_of_returnToCaller (exec_of_condTrue (exec_retOn k s) hk) hempty
  · exact stackFaultEffect_of_exec (exec_loadReturn_of_empty s x kk hempty)
  · exact stackFaultEffect_of_exec (State.returnFromInterrupt_of_empty hempty true)
  · exact stackFaultEffect_of_exec (State.returnFromInterrupt_of_empty hempty false)

/-- Settles O46: the entry leaves an interrupt frame of `s` on top, and `RETURNI` gives back what it holds. -/
theorem returniUndoesTheInterruptEntry : Obligations.ReturniUndoesTheInterruptEntry := by
  intro s t u hbank hie hirq hroom hstep hcfg hstk
  obtain rfl : s.afterEntry = t :=
    Host.Outcome.next.inj ((step_of_interrupt_room hie hirq (Nat.ne_of_lt hroom)).symm.trans hstep)
  have hframe : (frameOf s s.pc true).snap = some { z := s.z, c := s.c, bank := s.bank, isInt := true } := by
    rw [frameOf, if_pos hbank]
  have haddr : (frameOf s s.pc true).addr = s.pc := by rw [frameOf, if_pos hbank]
  obtain ⟨-, -, hreturni⟩ := returniRestoresTheInterruptContext
  obtain ⟨v, hexec, hpc, hz, hc, hb, hvie, -, hvstk, -⟩ :=
    hreturni u s.stk _ _ .returniEnable true (by simp) (hcfg ▸ hbank) hstk hframe rfl
  exact ⟨v, hexec, hpc.trans haddr, hz, hc, hb, hvstk, hvie⟩

/-! ### What stops a step -/

/-- The fault a return from interrupt meets in strict mode: the top frame is one that no interrupt pushed (R807). -/
def MismatchFault (s : State) (p : Result) : Prop :=
  s.cfg.strictDecode = true ∧ s.cfg.hasBank = true ∧
    ∃ f, f.isInt = false ∧ s.stk.getLast? = some f ∧ p = .fault (.frameMismatch f)

theorem State.returnFromInterrupt_next_or_fault (s : State) (b : Bool) :
    (∃ t, s.returnFromInterrupt b = .next t) ∨ MismatchFault s (s.returnFromInterrupt b) := by
  obtain ⟨-, h⟩ | ⟨rest, f, hstk, hbank, hint, hstrict, h⟩ | ⟨rest, f, -, -, h⟩ := s.returnFromInterrupt_cases b
  · exact .inl ⟨_, h⟩
  · exact .inr ⟨hstrict, hbank, f, hint, by simp [hstk], h⟩
  · exact .inl ⟨_, h⟩

theorem exec_loadReturn_next (s : State) (x : Reg) (kk : Byte) : ∃ t, exec (.loadReturn x kk) s = .next t := by
  obtain ⟨hempty, -⟩ | ⟨rest, f, hstk, -⟩ := s.pop_cases
  · exact ⟨_, exec_loadReturn_of_empty s x kk hempty⟩
  · exact ⟨_, exec_loadReturn_of_concat s x kk hstk⟩

/-- Only `RETURNI` can fault; every other instruction completes. -/
theorem exec_next_or_fault (i : Instr) (s : State) : (∃ t, exec i s = .next t) ∨ MismatchFault s (exec i s) := by
  cases i with
  | returniDisable | returniEnable => exact s.returnFromInterrupt_next_or_fault _
  | loadReturn x kk => exact .inl (exec_loadReturn_next s x kk)
  | _ => exact .inl ⟨_, rfl⟩

/-- Settles O51: an entry completes, an instruction completes or is the fault of R807, and an unassigned word is a no-op or the
fault of R806. -/
theorem onlyStrictModeFaults : Obligations.OnlyStrictModeFaults := by
  intro s
  by_cases hint : s.ie = true ∧ s.irq = true
  · exact .inl ⟨_, step_of_interrupt hint.1 hint.2⟩
  cases hdecode : decode s.cfg (s.pmRead s.pc) with
  | instr i =>
    rw [step_of_decode hint hdecode]
    obtain hnext | ⟨hstrict, hbank, hfault⟩ := exec_next_or_fault i s
    · exact .inl hnext
    · exact .inr ⟨hstrict, .inr ⟨hbank, hfault⟩⟩
  | unassigned w =>
    rw [step_of_decode_unassigned hint hdecode]
    obtain ⟨hstrict, hfault⟩ | ⟨-, hnext⟩ := s.runUnassigned_cases w
    · exact .inr ⟨hstrict, .inl ⟨w, rfl, hfault⟩⟩
    · exact .inl ⟨_, hnext⟩

/-- Settles O56: with interrupts disabled the step runs the jump, and its target is where `pc` already is. -/
theorem haltedSelfJumpStaysPut : Obligations.HaltedSelfJumpStaysPut := by
  intro s hhalted
  obtain ⟨hself, hie⟩ : s.selfJump = true ∧ s.ie = false := by simpa [State.halted] using hhalted
  have hdecode : decode s.cfg (s.pmRead s.pc) = .instr (.jump s.pc) := beq_iff_eq.1 hself
  exact step_of_decode (by simp [hie]) hdecode

/-! ### The host's reset and request -/

/-- Settles O12. -/
theorem hostResetKeepsTheParameters : Obligations.HostResetKeepsTheParameters := fun s =>
  ⟨s.resetCore, rfl, rfl, s.reg_resetCore, rfl, s.memRead_resetCore, rfl, rfl, rfl, rfl, rfl, ⟨rfl, rfl⟩,
    ⟨rfl, rfl, rfl, rfl, rfl⟩⟩

/-- Settles O13: with the latch set, `IE` alone decides whether the next cycle is the entry. -/
theorem trigIntSetsOnlyTheLatch : Obligations.TrigIntSetsOnlyTheLatch := fun s =>
  ⟨s.setIrq true, rfl, rfl, rfl, rfl, ⟨rfl, fun _ _ => rfl⟩, ⟨rfl, rfl⟩, rfl, fun _ => rfl, ⟨rfl, rfl⟩,
    ⟨rfl, rfl, rfl, rfl, rfl⟩, fun hie => step_of_interrupt hie rfl⟩

end Sys2Proof.Machine

namespace Sys2Proof.Machine

/-! ## Values as the host gives them (60_exceptions.md R823)

For each kind of value: it is refused exactly when it is ill-formed, and what is accepted is in order. -/

section Fit

variable {k : Cfg} {v w n : Nat}

/-! ### Numbers -/

theorem fitBits_eq_none_iff : fitBits w v = none ↔ 2 ^ w ≤ v := by simp [fitBits]

theorem fitReg_eq_none_iff : fitBits 4 v = none ↔ 16 ≤ v := fitBits_eq_none_iff

theorem fitBool_eq_none_iff : fitBool v = none ↔ 2 ≤ v := by
  unfold fitBool
  split_ifs <;> simp <;> omega

theorem fitBank_eq_none_iff : fitBank v = none ↔ 2 ≤ v := by
  unfold fitBank
  split_ifs <;> simp <;> omega

theorem fitBank_eq_some_a_iff : fitBank v = some .a ↔ v = 0 := by
  unfold fitBank
  split_ifs <;> simp [*]

/-! ### Register banks and scratch pads -/

theorem not_illBytes_iff {l : List Nat} : ¬illBytes n l ↔ l.length = n ∧ ∀ b ∈ l, b < 256 := by
  simp [illBytes]

theorem fitRegs_eq_none_iff {l : List Nat} : fitRegs l = none ↔ illBytes 16 l := by
  rw [← not_iff_not, not_illBytes_iff]
  simp [fitRegs]

theorem fitScratch_eq_none_iff {l : List Nat} : fitScratch n l = none ↔ illBytes n l := by
  rw [← not_iff_not, not_illBytes_iff]
  simp [fitScratch]

theorem fitScratch_scratchOk {l : List Nat} {m : List Host.Cell} (h : fitScratch k.scratchSize.bytes l = some m) :
    ScratchOk k m := by
  unfold fitScratch at h
  split at h
  · next hl =>
    cases h
    exact ⟨Memory.ofBytes_wf 0 l, hl.1 ▸ Memory.ofBytes_below l⟩
  · cases h

/-! ### Stacks -/

theorem RawSnap.fit_eq_none_iff {p : RawSnap} :
    p.fit = none ↔ 2 ≤ p.z ∨ 2 ≤ p.c ∨ 2 ≤ p.bank ∨ 2 ≤ p.isInt := by
  rw [← fitBool_eq_none_iff, ← fitBool_eq_none_iff, ← fitBank_eq_none_iff, ← fitBool_eq_none_iff, RawSnap.fit]
  cases fitBool p.z <;> cases fitBool p.c <;> cases fitBank p.bank <;> cases fitBool p.isInt <;> simp

theorem RawFrame.fit_eq_none_iff {r : RawFrame} : r.fit k = none ↔ r.ill k := by
  obtain ⟨a, snap⟩ := r
  simp only [RawFrame.ill, ← fitBits_eq_none_iff, ← RawSnap.fit_eq_none_iff, RawFrame.fit]
  cases fitBits 12 a with
  | none => simp
  | some b =>
    cases snap with
    | none => cases k.hasBank <;> simp
    | some p => cases hp : p.fit <;> cases k.hasBank <;> simp [hp]

theorem RawFrame.fit_shape {r : RawFrame} {f : Frame} (h : r.fit k = some f) : f.snap.isSome = k.hasBank := by
  unfold RawFrame.fit at h
  split at h
  · split_ifs at h with hbank
    cases h
    simp [hbank]
  · split_ifs at h with hbank
    split at h <;> cases h
    simp [hbank]
  · cases h

theorem fitFrames_eq_none_iff {l : List RawFrame} : fitFrames k l = none ↔ ∃ r ∈ l, r.ill k := by
  induction l with
  | nil => simp [fitFrames]
  | cons r rs ih =>
    rw [List.exists_mem_cons_iff, ← ih, ← RawFrame.fit_eq_none_iff, fitFrames]
    cases r.fit k <;> cases fitFrames k rs <;> simp

theorem fitFrames_shape {l : List RawFrame} {fs : List Frame} (h : fitFrames k l = some fs) :
    fs.length = l.length ∧ ∀ f ∈ fs, f.snap.isSome = k.hasBank := by
  induction l generalizing fs with
  | nil => cases h; simp
  | cons r rs ih =>
    unfold fitFrames at h
    split at h
    · next f gs hf hgs =>
      cases h
      obtain ⟨hlen, hshape⟩ := ih hgs
      exact ⟨congrArg (· + 1) hlen, List.forall_mem_cons.2 ⟨RawFrame.fit_shape hf, hshape⟩⟩
    · cases h

theorem fitStack_eq_none_iff {l : List RawFrame} : fitStack k l = none ↔ illStack k l := by
  rw [illStack, ← fitFrames_eq_none_iff, fitStack, ite_eq_right_iff, ← not_lt, imp_iff_not_or, not_not]

theorem fitStack_stackOk {l : List RawFrame} {fs : List Frame} (h : fitStack k l = some fs) : StackOk k fs := by
  unfold fitStack at h
  split at h
  · next hlen =>
    obtain ⟨hfs, hshape⟩ := fitFrames_shape h
    exact ⟨hfs ▸ hlen, hshape⟩
  · cases h

/-! ### Programs -/

theorem loadWords_eq_none_iff {ws : List (Nat × Nat)} : loadWords ws = none ↔ illWords ws := by
  induction ws with
  | nil => simp [loadWords, illWords]
  | cons e rest ih =>
    rw [illWords, List.exists_mem_cons_iff, ← illWords, ← ih]
    simp only [← fitBits_eq_none_iff, loadWords]
    cases fitBits 12 e.1 <;> cases fitBits 18 e.2 <;> cases loadWords rest <;> simp

end Fit

end Sys2Proof.Machine

namespace Sys2Proof.Machine

/-! ## `setState`, program load and snapshot load -/

section Accept

variable {s t : State}

/-- A state that differs only in registers, bank selector, `pc`, flags, interrupt bits, log and draws meets the invariant too,
once its bank selector is the variant's. -/
theorem State.Inv.of_bank (hs : s.Inv) (hp : ParamsKept s t) (hsp : t.sp = s.sp) (hstk : t.stk = s.stk)
    (hbank : s.cfg.hasBank = false → t.bank = .a) : t.Inv :=
  hs.of_paramsKept hp (hsp ▸ ⟨hs.spCanonical, hs.spBound⟩) (hstk ▸ ⟨hs.stackBound, hs.frameShape⟩) hbank

theorem State.Inv.of_same (hs : s.Inv) (hp : ParamsKept s t) (hsp : t.sp = s.sp) (hstk : t.stk = s.stk)
    (hbank : t.bank = s.bank) : t.Inv :=
  hs.of_bank hp hsp hstk (hbank ▸ hs.baseBank)

theorem State.Inv.of_program (hs : s.Inv) {m : List (Nat × InsnWord)} (hrising : Sparse.rising m)
    (hbelow : Sparse.below 4096 m) : ({ s with pm := m } : State).Inv :=
  { hs with pmCanonical := hrising, pmBound := hbelow }

theorem State.Inv.assign (hs : s.Inv) (a : Addr) (e : Option InsnWord) : (s.assign a e).Inv :=
  hs.of_program (Sparse.put_rising _ e hs.pmCanonical) (Sparse.put_below e a.isLt hs.pmBound)

/-- `setState` refuses exactly the values that do not fit their field. -/
theorem State.setField_eq_none_iff (f : FieldValue) : s.setField f = none ↔ f.ill s.cfg := by
  cases f with
  | pc v => simp [State.setField, FieldValue.ill, fitBits_eq_none_iff]
  | z v | c v | ie v | irq v => simp [State.setField, FieldValue.ill, fitBool_eq_none_iff]
  | stk l => simp [State.setField, FieldValue.ill, fitStack_eq_none_iff]
  | regA i v | register i v =>
    simp only [State.setField, FieldValue.ill, ← fitReg_eq_none_iff, ← fitBits_eq_none_iff]
    cases fitBits 4 i <;> cases fitBits 8 v <;> simp
  | regB i v | shadow i v =>
    simp only [State.setField, FieldValue.ill, ← fitReg_eq_none_iff, ← fitBits_eq_none_iff]
    cases fitBits 4 i <;> cases fitBits 8 v <;> simp
  | bank v | activeFlag v =>
    simp only [State.setField, FieldValue.ill, ← fitBank_eq_none_iff, ne_eq, ← fitBank_eq_some_a_iff]
    cases fitBank v <;> simp
  | scratch i v =>
    simp only [State.setField, FieldValue.ill, ← fitBits_eq_none_iff]
    cases fitBits 8 v <;> simp
  | program a w =>
    simp only [FieldValue.ill, ← fitBits_eq_none_iff]
    cases w with
    | none => simp [State.setField]
    | some w => cases ha : fitBits 12 a <;> cases hw : fitBits 18 w <;> simp [State.setField, ha, hw]

/-- `setState` writes one field, and a value that fits it keeps that field's part of the invariant. -/
theorem State.Inv.setField (hs : s.Inv) {f : FieldValue} (h : s.setField f = some t) : t.Inv := by
  cases f with
  | pc v | z v | c v | ie v | irq v =>
    obtain ⟨b, -, rfl⟩ := Option.map_eq_some_iff.1 h
    exact hs.of_same ⟨rfl, rfl, rfl, rfl, rfl⟩ rfl rfl rfl
  | stk l =>
    obtain ⟨fs, hfs, rfl⟩ := Option.map_eq_some_iff.1 h
    exact hs.of_paramsKept ⟨rfl, rfl, rfl, rfl, rfl⟩ ⟨hs.spCanonical, hs.spBound⟩ (fitStack_stackOk hfs) hs.baseBank
  | regA i v | register i v =>
    simp only [State.setField] at h
    split at h <;> cases h
    exact hs.of_same ⟨rfl, rfl, rfl, rfl, rfl⟩ rfl rfl rfl
  | regB i v | shadow i v =>
    simp only [State.setField] at h
    split at h
    · split_ifs at h
      cases h
      exact hs.of_same ⟨rfl, rfl, rfl, rfl, rfl⟩ rfl rfl rfl
    · cases h
  | bank v | activeFlag v =>
    simp only [State.setField] at h
    split at h
    · split_ifs at h
      cases h
      exact hs.of_bank ⟨rfl, rfl, rfl, rfl, rfl⟩ rfl rfl fun hbase => by simp [hbase]
    · cases h
  | scratch i v =>
    simp only [State.setField] at h
    split at h
    · split_ifs at h with hi
      cases h
      exact hs.of_paramsKept ⟨rfl, rfl, rfl, rfl, rfl⟩
        ⟨Memory.write_wf _ _ hs.spCanonical, Memory.write_below _ hi hs.spBound⟩ ⟨hs.stackBound, hs.frameShape⟩ hs.baseBank
    · cases h
  | program a w =>
    cases w with
    | none =>
      obtain ⟨b, -, rfl⟩ := Option.map_eq_some_iff.1 h
      exact hs.assign b none
    | some w =>
      simp only [State.setField] at h
      split at h <;> cases h
      exact hs.assign _ _

/-! ### Snapshot load -/

/-- The registers of a snapshot do not fit: either file has not 16 bytes, the shadow part is not the variant's, or the active-bank
flag is too wide. -/
theorem State.fitBanks_eq_none_iff (v : SavedState) : s.fitBanks v = none ↔
    illBytes 16 v.regs ∨ v.shadow.isSome ≠ s.cfg.hasBank ∨
      ∃ p, v.shadow = some p ∧ (illBytes 16 p.regs ∨ 2 ≤ p.active) := by
  simp only [← fitRegs_eq_none_iff, ← fitBank_eq_none_iff, State.fitBanks]
  cases fitRegs v.regs with
  | none => simp
  | some r =>
    cases v.shadow with
    | none => simp
    | some p =>
      cases hk : fitBank p.active with
      | none => simp [hk]
      | some k => cases hq : fitRegs p.regs <;> cases k <;> simp [hq, hk]

/-- Without `HAS_BANK` an accepted snapshot selects bank A. -/
theorem State.fitBanks_base {v : SavedState} {ra rb : RegFile} {k : Bank} (h : s.fitBanks v = some (ra, rb, k))
    (hbase : s.cfg.hasBank = false) : k = .a := by
  unfold State.fitBanks at h
  split at h
  · rw [if_neg (by simp [hbase])] at h
    cases h
    rfl
  · simp [hbase] at h
  · cases h

theorem State.fitProgram_eq_none_iff (v : SavedState) :
    s.fitProgram v = none ↔ ∃ ws, v.program = some ws ∧ illWords ws := by
  unfold State.fitProgram
  cases v.program <;> simp [loadWords_eq_none_iff]

theorem State.Inv.fitProgram (hs : s.Inv) {v : SavedState} {m : List (Nat × InsnWord)} (h : s.fitProgram v = some m) :
    ({ s with pm := m } : State).Inv := by
  unfold State.fitProgram at h
  split at h
  · exact hs.of_program (loadWords_rising h).1 (loadWords_rising h).2
  · cases h
    exact hs

/-- An accepted snapshot is loaded part by part. -/
theorem State.Inv.load (hs : s.Inv) {v : SavedState} (h : s.load v = some t) : t.Inv := by
  unfold State.load at h
  split at h
  · next hbanks hscratch hstack hprogram =>
    split at h
    · cases h
      exact (hs.fitProgram hprogram).of_paramsKept ⟨rfl, rfl, rfl, rfl, rfl⟩ (fitScratch_scratchOk hscratch)
        (fitStack_stackOk hstack) (s.fitBanks_base hbanks)
    · cases h
  · cases h

/-- Snapshot load refuses exactly the snapshots with a part that does not fit. -/
theorem State.load_eq_none_iff (v : SavedState) : s.load v = none ↔ v.ill s.cfg := by
  have hparts : v.ill s.cfg ↔ s.fitBanks v = none ∨ fitScratch s.cfg.scratchSize.bytes v.scratch = none ∨
      fitStack s.cfg v.stack = none ∨ fitBits 12 v.pc = none ∨ fitBool v.z = none ∨ fitBool v.c = none ∨
      fitBool v.ie = none ∨ fitBool v.irq = none ∨ s.fitProgram v = none := by
    rw [State.fitBanks_eq_none_iff, fitScratch_eq_none_iff, fitStack_eq_none_iff, State.fitProgram_eq_none_iff]
    simp only [fitBits_eq_none_iff, fitBool_eq_none_iff, SavedState.ill, or_assoc]
  rw [hparts]
  constructor
  · intro hnone
    by_contra hfits
    simp only [not_or, ← ne_eq, Option.ne_none_iff_exists'] at hfits
    obtain ⟨⟨_, hbanks⟩, ⟨_, hscratch⟩, ⟨_, hstack⟩, ⟨_, hpc⟩, ⟨_, hz⟩, ⟨_, hc⟩, ⟨_, hie⟩, ⟨_, hirq⟩, _, hprogram⟩ := hfits
    simp [State.load, hbanks, hscratch, hstack, hprogram, hpc, hz, hc, hie, hirq] at hnone
  · intro hill
    unfold State.load
    split
    · next hbanks hscratch hstack hprogram =>
      split
      · next hpc hz hc hie hirq => simp [hbanks, hscratch, hstack, hprogram, hpc, hz, hc, hie, hirq] at hill
      · rfl
    · rfl

end Accept

end Sys2Proof.Machine

namespace Sys2Proof.Machine

/-! ## The host's actions (60_exceptions.md R820 to R824) -/

section Answers

variable {s t : State}

theorem HostAnswer.of_eq_done_iff {r : HostRefusal} {o : Option State} : HostAnswer.of r o = .done t ↔ o = some t := by
  cases o <;> simp [HostAnswer.of]

/-- An action that may be refused is refused exactly on the ill-formed inputs, given what makes it fail. -/
theorem HostAnswer.refused_or_done {r : HostRefusal} {o : Option State} {p : Prop} (h : o = none ↔ p) :
    (p → HostAnswer.of r o = .refused r) ∧ (¬p → ∃ t, HostAnswer.of r o = .done t) := by
  refine ⟨fun hp => by rw [h.2 hp]; rfl, fun hp => ?_⟩
  obtain ⟨t, ht⟩ := Option.ne_none_iff_exists'.1 (mt h.1 hp)
  exact ⟨t, HostAnswer.of_eq_done_iff.2 ht⟩

theorem State.attached_iff {id : Nat} : s.attached id = true ↔ ∃ d ∈ s.devices, d.id = id := by
  simp [State.attached]

/-! ### Devices -/

theorem State.hostAct_registerDevice_iff {d : Device} : s.hostAct (.registerDevice d) = .done t ↔
    ¬s.attached d.id = true ∧ parseSpec d.spec ≠ none ∧ s.withDevices (s.devices ++ [d]) = t := by
  simp only [State.hostAct, Option.isNone_iff_eq_none]
  split_ifs with hold hspec
  · simp [hold]
  · simp [hspec]
  · simp [hold, hspec]

theorem State.hostAct_detachDevice_iff {id : Nat} : s.hostAct (.detachDevice id) = .done t ↔
    s.attached id = true ∧ s.withDevices (s.devices.filter fun d => d.id != id) = t := by
  simp only [State.hostAct]
  split_ifs with hold <;> simp [hold]

theorem State.hostAct_editSpec_iff {id : Nat} {spec : List Char} : s.hostAct (.editSpec id spec) = .done t ↔
    s.attached id = true ∧ parseSpec spec ≠ none ∧
      s.withDevices (s.devices.map fun d => if d.id = id then { d with spec := spec } else d) = t := by
  simp only [State.hostAct, Option.isNone_iff_eq_none, Bool.not_eq_true', ← Bool.not_eq_true]
  split_ifs with hold hspec
  · simp [hspec]
  · simp [hold, hspec]
  · simp [hold]

/-- Rebuilding the router keeps the tables those of the devices; what is left is the devices themselves. -/
theorem State.Inv.withDevices (hs : s.Inv) {l : List Device} (hspecs : ∀ d ∈ l, (parseSpec d.spec).isSome = true)
    (hnames : l.Pairwise fun d e => d.id ≠ e.id) : (s.withDevices l).Inv :=
  { hs with specsLegal := hspecs, deviceNames := hnames, readTable := rfl, writeTable := rfl }

theorem State.Inv.registerDevice (hs : s.Inv) {d : Device} (hnew : ¬s.attached d.id = true)
    (hspec : (parseSpec d.spec).isSome = true) : (s.withDevices (s.devices ++ [d])).Inv := by
  refine hs.withDevices (fun e he => ?_) (List.pairwise_append.2 ⟨hs.deviceNames, List.pairwise_singleton .., ?_⟩)
  · rcases List.mem_append.1 he with he | he
    · exact hs.specsLegal e he
    · rwa [List.mem_singleton.1 he]
  · intro e he d' hd' hid
    rw [List.mem_singleton.1 hd'] at hid
    exact hnew (State.attached_iff.2 ⟨e, he, hid⟩)

theorem State.Inv.detachDevice (hs : s.Inv) (id : Nat) :
    (s.withDevices (s.devices.filter fun d => d.id != id)).Inv :=
  hs.withDevices (fun d hd => hs.specsLegal d (List.mem_filter.1 hd).1) (hs.deviceNames.filter _)

/-- An edit gives one device a new spec and leaves every name. -/
theorem State.Inv.editSpec (hs : s.Inv) (id : Nat) {spec : List Char} (hspec : (parseSpec spec).isSome = true) :
    (s.withDevices (s.devices.map fun d => if d.id = id then { d with spec := spec } else d)).Inv := by
  have hid : ∀ d : Device, (if d.id = id then { d with spec := spec } else d).id = d.id := fun d => by split <;> rfl
  refine hs.withDevices (fun e he => ?_) (List.pairwise_map.2 ?_)
  · obtain ⟨d, hd, rfl⟩ := List.mem_map.1 he
    split
    · exact hspec
    · exact hs.specsLegal d hd
  · simpa only [hid] using hs.deviceNames

end Answers

/-- Settles O49, action by action. -/
theorem hostActionsKeepTheInvariant : Obligations.HostActionsKeepTheInvariant := by
  intro s t act hs hact
  cases act with
  | trigInt =>
    cases hact
    exact hs.of_same ⟨rfl, rfl, rfl, rfl, rfl⟩ rfl rfl rfl
  | reset =>
    cases hact
    exact hs.of_paramsKept ⟨rfl, rfl, rfl, rfl, rfl⟩ (scratchOk_nil _) (stackOk_nil _) fun _ => rfl
  | setState f => exact hs.setField (HostAnswer.of_eq_done_iff.1 hact)
  | loadSnapshot v => exact hs.load (HostAnswer.of_eq_done_iff.1 hact)
  | loadProgram ws =>
    obtain ⟨m, hm, rfl⟩ := Option.map_eq_some_iff.1 (HostAnswer.of_eq_done_iff.1 hact)
    exact hs.of_program (loadWords_rising hm).1 (loadWords_rising hm).2
  | registerDevice d =>
    obtain ⟨hnew, hspec, rfl⟩ := State.hostAct_registerDevice_iff.1 hact
    exact hs.registerDevice hnew (Option.isSome_iff_ne_none.2 hspec)
  | detachDevice id =>
    obtain ⟨-, rfl⟩ := State.hostAct_detachDevice_iff.1 hact
    exact hs.detachDevice id
  | editSpec id spec =>
    obtain ⟨-, hspec, rfl⟩ := State.hostAct_editSpec_iff.1 hact
    exact hs.editSpec id (Option.isSome_iff_ne_none.2 hspec)

/-- Settles O60: `setState` and the two loads refuse what is ill-formed, and devices are refused for their name or their spec. -/
theorem illFormedHostActionsAreRefused : Obligations.IllFormedHostActionsAreRefused := by
  refine fun s => ⟨fun f => ?_, fun v => ?_, fun ws => ?_, fun d => ?_, fun id spec => ?_⟩
  · exact HostAnswer.refused_or_done (State.setField_eq_none_iff f)
  · exact HostAnswer.refused_or_done (State.load_eq_none_iff v)
  · exact HostAnswer.refused_or_done (Option.map_eq_none_iff.trans loadWords_eq_none_iff)
  · have hnew : (∀ e ∈ s.devices, e.id ≠ d.id) ↔ ¬s.attached d.id = true := by simp [State.attached_iff]
    simp [State.hostAct_registerDevice_iff, hnew, and_comm]
  · simp [State.hostAct_editSpec_iff, State.attached_iff, and_comm]

end Sys2Proof.Machine

namespace Sys2Proof.Machine

/-! ## Snapshot save and load (60_exceptions.md R823)

What each part of a saved state was saved from is what it loads as. -/

section Saved

theorem fitRegs_saved (f : RegFile) : fitRegs (RegFile.saved f) = some f := by
  have hfits : (RegFile.saved f).length = 16 ∧ ∀ v ∈ RegFile.saved f, v < 256 := by
    refine ⟨by simp [RegFile.saved], fun v hv => ?_⟩
    obtain ⟨b, -, rfl⟩ := List.mem_map.1 hv
    exact b.isLt
  rw [fitRegs, if_pos hfits, Option.some_inj]
  apply Vector.ext
  intro i hi
  simp [RegFile.saved, List.getD]

/-- Above every key a memory reads as unlisted. -/
theorem Memory.read_of_below {w n j : Nat} {m : List (Nat × BitVec w)} (h : Sparse.below n m) (hj : n ≤ j) :
    Memory.read m j = 0#w := by
  unfold Memory.read
  cases hlookup : Sparse.lookup m j with
  | none => rfl
  | some v => exact absurd (h _ (Sparse.mem_of_lookup hlookup)) (Nat.not_lt.2 hj)

/-- A scratch pad saved as the bytes at its `n` locations loads as itself: the canonical form is fixed by what it reads. -/
theorem fitScratch_saved {n : Nat} {m : List Host.Cell} (hwf : Memory.wf m) (hbelow : Sparse.below n m) :
    fitScratch n ((List.range n).map fun j => (Memory.read m j).toNat) = some m := by
  have hfits : ((List.range n).map fun j => (Memory.read m j).toNat).length = n ∧
      ∀ v ∈ (List.range n).map fun j => (Memory.read m j).toNat, v < 256 := by
    refine ⟨by simp, fun v hv => ?_⟩
    obtain ⟨j, -, rfl⟩ := List.mem_map.1 hv
    exact (Memory.read m j).isLt
  rw [fitScratch, if_pos hfits, Option.some_inj]
  refine Memory.ext_read (Memory.ofBytes_wf ..) hwf fun j => ?_
  have hread := Memory.read_ofBytes ((List.range n).map fun j => (Memory.read m j).toNat) 0 j
  rw [Nat.zero_add] at hread
  rw [hread]
  by_cases hj : j < n
  · simp [List.getD, hj]
  · simp [List.getD, hj, Memory.read_of_below hbelow (Nat.not_lt.1 hj)]

theorem RawFrame.fit_saved {k : Cfg} {f : Frame} (h : f.snap.isSome = k.hasBank) : f.saved.fit k = some f := by
  obtain ⟨a, snap⟩ := f
  cases snap with
  | none => simp [Frame.saved, RawFrame.fit, ← h]
  | some p => simp [Frame.saved, RawFrame.fit, RawSnap.fit, ← h]

theorem fitFrames_saved {k : Cfg} {l : List Frame} (h : ∀ f ∈ l, f.snap.isSome = k.hasBank) :
    fitFrames k (l.map Frame.saved) = some l := by
  induction l with
  | nil => rfl
  | cons f fs ih =>
    obtain ⟨hf, hfs⟩ := List.forall_mem_cons.1 h
    rw [List.map_cons, fitFrames, RawFrame.fit_saved hf, ih hfs]

theorem fitStack_saved {k : Cfg} {l : List Frame} (h : StackOk k l) : fitStack k (l.map Frame.saved) = some l := by
  obtain ⟨hlen, hshape⟩ := h
  rw [fitStack, List.length_map, if_pos hlen, fitFrames_saved hshape]

/-- Inserting below every key puts the entry first. -/
theorem Sparse.insert_of_lt {α : Type} {m : List (Nat × α)} {k : Nat} (v : α) (h : ∀ e ∈ m, k < e.1) :
    Sparse.insert m k v = (k, v) :: m := by
  cases m with
  | nil => rfl
  | cons e rest => rw [Sparse.insert, if_pos (h e List.mem_cons_self)]

theorem loadWords_saved {m : List (Nat × InsnWord)} (hrising : Sparse.rising m) (hbelow : Sparse.below 4096 m) :
    loadWords (m.map fun e => (e.1, e.2.toNat)) = some m := by
  induction m with
  | nil => rfl
  | cons e rest ih =>
    obtain ⟨hfirst, hrest⟩ := List.pairwise_cons.1 hrising
    obtain ⟨he, hbelow'⟩ := List.forall_mem_cons.1 hbelow
    have haddr : fitBits 12 e.1 = some (BitVec.ofNat 12 e.1) := if_pos he
    have hkey : (BitVec.ofNat 12 e.1).toNat = e.1 := fitBits_eq_some haddr
    simp only [List.map_cons, loadWords, haddr, fitBits_toNat, ih hrest hbelow', hkey, Sparse.insert_of_lt e.2 hfirst]

end Saved

section SaveLoad

/-- The state `u` with the architectural state of `s`, but for the bank that the base variant does not have. -/
def State.withSaved (u s : State) : State :=
  { u with
    pc := s.pc, regsA := s.regsA, regsB := if s.cfg.hasBank then s.regsB else u.regsB, bank := s.bank, sp := s.sp
    z := s.z, c := s.c, ie := s.ie, irq := s.irq, stk := s.stk }

variable {s u : State} (hs : s.Inv) (hcfg : u.cfg = s.cfg)
include hs hcfg

theorem State.fitBanks_save (p : Option (List (Nat × Nat))) : u.fitBanks { s.save with program := p } =
    some (s.regsA, if s.cfg.hasBank then s.regsB else u.regsB, s.bank) := by
  cases hb : s.cfg.hasBank with
  | false => simp [State.fitBanks, State.save, State.activeBank, hcfg, hb, fitRegs_saved, hs.baseBank hb]
  | true => cases hk : s.bank <;> simp [State.fitBanks, State.save, State.activeBank, hcfg, hb, hk, fitRegs_saved]

theorem State.load_save {p : Option (List (Nat × Nat))} {m : List (Nat × InsnWord)}
    (hprogram : u.fitProgram { s.save with program := p } = some m) :
    u.load { s.save with program := p } = some { u.withSaved s with pm := m } := by
  have hscratch := fitScratch_saved hs.spCanonical hs.spBound
  have hstack := fitStack_saved ⟨hs.stackBound, hs.frameShape⟩
  unfold State.load
  rw [State.fitBanks_save hs hcfg p, hprogram, hcfg]
  simp [State.save, hscratch, hstack, State.withSaved, hcfg]

end SaveLoad

/-- Settles O59: both snapshots load the architectural state, and program memory is what `fitProgram` makes of each. -/
theorem snapshotLoadGivesBackTheState : Obligations.SnapshotLoadGivesBackTheState := by
  intro s u hs hcfg
  have hprogram : u.fitProgram s.saveWithProgram = some s.pm := loadWords_saved hs.pmCanonical hs.pmBound
  exact ⟨u.withSaved s, rfl, HostAnswer.of_eq_done_iff.2 (State.load_save hs hcfg (p := none) rfl),
    HostAnswer.of_eq_done_iff.2 (State.load_save hs hcfg hprogram)⟩

end Sys2Proof.Machine
